-- ==== Sys2Proof/Word.lean ====
section
/-! DEFINITION. The value types of the block (spec/00_scope.md R12): bytes and unsigned integers of 16 and 32 bits.
No value of this block is signed, and no rule sign-extends. -/

namespace Sys2Proof

/-- A byte, `u8` (R12). -/
abbrev Byte := BitVec 8

/-- An unsigned 16-bit integer, `u16` (R12). -/
abbrev U16 := BitVec 16

/-- An unsigned 32-bit integer, `u32` (R12). -/
abbrev U32 := BitVec 32

end Sys2Proof
end

