-- ==== Sys2Proof/Config.lean ====
section
/-! DEFINITION. What an implementation fixes: the constants the spec states (R6 to R9), the parameters it leaves OPEN (R10,
spec/93_implementation_defined.md section 2), and the values it leaves unspecified after reset (section 1 there).
An open or unspecified value is an opaque constant: nothing in Lean can evaluate it, so whatever is proved holds for all. -/

namespace Sys2Proof

/-- `PAYLOAD_MAX` (R6): the largest payload of a frame. -/
def payloadMax : Nat := 65535

/-- `RESP_BUF_CAP` (R7): the size of the response buffer in bytes. -/
def respBufCap : Nat := 265

/-- `NORMAL_MAX` (R8): the largest payload that uses the normal form. -/
def normalMax : Nat := 255

/-- The longest byte sequence a codec operation takes (R109): one whole extended frame, `PAYLOAD_MAX + 10` (R96). -/
def frameMax : Nat := 65545

/-- The parameters the sources leave OPEN (R10), which a model takes as arguments. The machine carries them in its state
as plain data and no step changes them, so a statement about every state holds for every choice of them (log entry 1). -/
structure Params where
  /-- `CANCEL_SETTLE_MS` (R186, D12): the length of the cancel's sleep in milliseconds. -/
  cancelSettleMs : Nat
  /-- `DERIVED_TIMEOUT_MAX` (R124, D29): the saturation bound of the doubled timeout, at most `2^32 - 1`. -/
  derivedTimeoutMax : U32
  /-- `TIMEOUT_RESET` (R30, D4): the reset value of `TIMEOUT`. -/
  timeoutReset : U32
  /-- `RX_DEPTH` (R68, D23): the receive queue's capacity; `none` is unbounded. -/
  rxDepth : Option Nat
deriving DecidableEq, Repr

namespace Config

/-- `CANCEL_SETTLE_MS` of this machine: OPEN (R186). -/
opaque cancelSettleMs : Nat

/-- `DERIVED_TIMEOUT_MAX` of this machine: OPEN (R124). -/
opaque derivedTimeoutMax : U32

/-- `TIMEOUT_RESET` of this machine: OPEN (R30). -/
opaque timeoutReset : U32

/-- What `RESP_LEN` holds after the `n`-th reset: unspecified, any `u16` (R36, R261). -/
opaque respLenReset : (n : Nat) → U16

/-- What byte `i` of `RESP` holds after the `n`-th reset: unspecified, any byte (R37, R261). -/
opaque respByteReset : (n i : Nat) → Byte

/-- The clock's value at power-on: any `u32` (R246). -/
opaque clkPowerOn : U32

/-- The parameters of this machine. `RX_DEPTH` takes the default the spec decides, unbounded (R68, D23; log entry 2). -/
def params : Params where
  cancelSettleMs := cancelSettleMs
  derivedTimeoutMax := derivedTimeoutMax
  timeoutReset := timeoutReset
  rxDepth := none

end Config

end Sys2Proof
end

