-- ==== Sys2Proof/Syntax.lean ====
section
/-! DEFINITION. The syntax of the block: the eleven host operations (spec/30_encoding.md R108, R109), the wire frame units of
the opcode table (R91 to R95, R103) and the cancel sequence (R115), with the encoded form of each. -/

namespace Sys2Proof

/-- A typed operand of a host operation (R108): "`u32`, `u16`, a boolean, or a byte sequence with its length". -/
inductive Operand where
  | u32 (v : U32)
  | u16 (v : U16)
  | bool (b : Bool)
  | bytes (s : List Byte)
deriving DecidableEq, Repr

/-- The eleven host operations by name (R109). -/
inductive HostOp where
  | setTimeout | getTimeout | exchange | getStatus | getRespLen | readResp
  | checksum | encodeFrame | isAck | decodeFrame | timeoutX2
deriving DecidableEq, Repr

/-- One encoded unit as it reaches or leaves the block. The three channels are different ports, so equal bytes on two of
them are different units: the ACK pattern received is `FRAME_ACK`, sent by the engine it is `CANCEL_SEQUENCE`. -/
inductive Packet where
  /-- A request on the host interface: an operation code and typed operands (R108). The interface has no byte packing. -/
  | request (op : Byte) (operands : List Operand)
  /-- Bytes the remote delivers to `RX`, in wire order (R67, R13). -/
  | received (bytes : List Byte)
  /-- Bytes the engine itself sends on `TX` (R64, R185). -/
  | sent (bytes : List Byte)
deriving DecidableEq, Repr

/-- The rows of spec/opcode_table.json, one constructor each. -/
inductive Instr where
  /-- `SET_TIMEOUT t` (R120). -/
  | setTimeout (t : U32)
  /-- `GET_TIMEOUT` (R121). -/
  | getTimeout
  /-- `EXCHANGE cmd, maxLen` (R170). -/
  | exchange (cmd : List Byte) (maxLen : U16)
  /-- `GET_STATUS` (R125). -/
  | getStatus
  /-- `GET_RESP_LEN` (R126). -/
  | getRespLen
  /-- `READ_RESP i` (R127). -/
  | readResp (i : U16)
  /-- `CHECKSUM s` (R140). -/
  | checksum (s : List Byte)
  /-- `ENCODE_FRAME p` (R143). -/
  | encodeFrame (p : List Byte)
  /-- `IS_ACK s` (R145). -/
  | isAck (s : List Byte)
  /-- `DECODE_FRAME s, cap` (R146). -/
  | decodeFrame (s : List Byte) (cap : U16)
  /-- `TIMEOUT_X2` (R124). -/
  | timeoutX2
  /-- `FRAME_ACK`: the 6-byte ACK frame arrives from the remote (R95). -/
  | frameAck
  /-- `CANCEL_SEQUENCE`: the engine sends the ACK pattern on a timeout (R185). -/
  | cancelSequence
  /-- `FRAME_EXT_HEADER`: an 8-byte extended header arrives (R93). -/
  | frameExtHeader (lenh lenl lcs : Byte)
  /-- `FRAME_NORMAL_HEADER`: a 5-byte normal header arrives (R92). -/
  | frameNormalHeader (len lcs : Byte)
  /-- `FRAME_TRAILER`: the 2-byte trailer arrives (R94). -/
  | frameTrailer (dcs : Byte)
deriving DecidableEq, Repr

end Sys2Proof
end

