-- ==== Sys2Proof/WellFormed.lean ====
section
/-! DEFINITION. Which instructions an encoding can express (`wellFormed`), and which operand values the block accepts
(`operandsLegal`). The decoder answers exactly the well-formed instructions; an operand that can be expressed and is not
legal is refused by the instruction's meaning, by name (R111, R128). -/

namespace Sys2Proof

/-- Whether an encoding of `i` exists: byte sequences within the lengths of R109 ("`EXCHANGE` with `|cmd| > 65535` cannot be
expressed", R111), and a normal header that is not the extended marker `FF FF` (R98). -/
def Instr.wellFormed : Instr → Bool
  | .setTimeout _ => true
  | .getTimeout => true
  | .exchange cmd _ => decide (cmd.length ≤ payloadMax)
  | .getStatus => true
  | .getRespLen => true
  | .readResp _ => true
  | .checksum s => decide (s.length ≤ payloadMax)
  | .encodeFrame p => decide (p.length ≤ payloadMax)
  | .isAck s => decide (s.length ≤ frameMax)
  | .decodeFrame s _ => decide (s.length ≤ frameMax)
  | .timeoutX2 => true
  | .frameAck => true
  | .cancelSequence => true
  | .frameExtHeader _ _ _ => true
  | .frameNormalHeader len lcs => !(len == 0xFF && lcs == 0xFF)
  | .frameTrailer _ => true

/-- Whether the operand values are ones the block accepts: `maxLen <= 265` for `EXCHANGE` (R111, D19) and `i < 265` for
`READ_RESP` (R128, D39). "Every `u32` is a legal `SET_TIMEOUT` operand" (R111). -/
def Instr.operandsLegal : Instr → Bool
  | .setTimeout _ => true
  | .getTimeout => true
  | .exchange _ maxLen => decide (maxLen.toNat ≤ respBufCap)
  | .getStatus => true
  | .getRespLen => true
  | .readResp i => decide (i.toNat < respBufCap)
  | .checksum _ => true
  | .encodeFrame _ => true
  | .isAck _ => true
  | .decodeFrame _ _ => true
  | .timeoutX2 => true
  | .frameAck => true
  | .cancelSequence => true
  | .frameExtHeader _ _ _ => true
  | .frameNormalHeader _ _ => true
  | .frameTrailer _ => true

/-- Whether the operation is accepted only while the block is ready (R109, column "needs ready"). The pure codec operations
never hold, and what the remote or the engine does is no host operation. -/
def Instr.needsReady : Instr → Bool
  | .setTimeout _ => true
  | .getTimeout => true
  | .exchange _ _ => true
  | .getStatus => true
  | .getRespLen => true
  | .readResp _ => true
  | .checksum _ => false
  | .encodeFrame _ => false
  | .isAck _ => false
  | .decodeFrame _ _ => false
  | .timeoutX2 => true
  | .frameAck => false
  | .cancelSequence => false
  | .frameExtHeader _ _ _ => false
  | .frameNormalHeader _ _ => false
  | .frameTrailer _ => false

end Sys2Proof
end

