-- ==== Sys2Proof/Decode.lean ====
section
/-! DEFINITION. The decoder, total on any packet and rejecting by name, and the encoder after it
(spec/30_encoding.md R90 to R112, spec/opcode_table.json). -/

namespace Sys2Proof

/-- Why the decoder rejects a packet. -/
inductive Reject where
  /-- The operation code names no operation (R110). -/
  | undefinedOperation (op : Byte)
  /-- The operation's operands are not the ones R109 lists. -/
  | operandsDoNotFit (op : Byte)
  /-- A byte sequence longer than its `u16` length, or the bound of R109, can express (R111). -/
  | sequenceTooLong (op : Byte)
  /-- Received bytes that are no single frame unit of the table; they are raw bytes to the link (R67). -/
  | notAFrameUnit (bytes : List Byte)
  /-- Bytes the engine never sends on its own account; `ENCODE_FRAME` of a command goes out inside an exchange (R194). -/
  | notACancel (bytes : List Byte)
deriving DecidableEq, Repr

/-! ## Host operation codes (R109) -/

/-- The operation code `OP` of R109. -/
def HostOp.code : HostOp → Byte
  | .setTimeout => 0x01
  | .getTimeout => 0x02
  | .exchange => 0x03
  | .getStatus => 0x04
  | .getRespLen => 0x05
  | .readResp => 0x06
  | .checksum => 0x10
  | .encodeFrame => 0x11
  | .isAck => 0x12
  | .decodeFrame => 0x13
  | .timeoutX2 => 0x14

/-- The rows of R109's table, in its order. -/
def HostOp.all : List HostOp :=
  [.setTimeout, .getTimeout, .exchange, .getStatus, .getRespLen, .readResp,
   .checksum, .encodeFrame, .isAck, .decodeFrame, .timeoutX2]

/-- The operation an operation code names; the codes `0x00`, `0x07` to `0x0F` and `0x15` to `0xFF` name none (R110). -/
def HostOp.ofCode (op : Byte) : Option HostOp :=
  HostOp.all.find? fun h => h.code == op

/-- The operand list of R109 with every operand zero or empty. -/
def HostOp.zeroOperands : HostOp → List Operand
  | .setTimeout => [.u32 0]
  | .getTimeout => []
  | .exchange => [.bytes [], .u16 0]
  | .getStatus => []
  | .getRespLen => []
  | .readResp => [.u16 0]
  | .checksum => [.bytes []]
  | .encodeFrame => [.bytes []]
  | .isAck => [.bytes []]
  | .decodeFrame => [.bytes [], .u16 0]
  | .timeoutX2 => []

/-! ## Frame constants (R91, R93, R95) -/

/-- The preamble `00 00 FF` (R91). -/
def preamble : List Byte := [0x00, 0x00, 0xFF]

/-- The marker byte `FF` of the extended form, sent twice (R93). -/
def markerByte : Byte := 0xFF

/-- The postamble `00` (R94). -/
def postamble : Byte := 0x00

/-- The ACK pattern `00 00 FF 00 FF 00` (R9, R95). -/
def ackPattern : List Byte := [0x00, 0x00, 0xFF, 0x00, 0xFF, 0x00]

/-! ## Decoding -/

/-- Answers `i` unless it cannot be expressed (R111). -/
def accept (op : Byte) (i : Instr) : Except Reject Instr :=
  if i.wellFormed then .ok i else .error (.sequenceTooLong op)

/-! The operand forms of R109: no operand, one `u32`, one `u16`, one byte sequence, a byte sequence and a `u16`. -/

/-- The form with no operand. -/
def formNone (op : Byte) (operands : List Operand) (i : Instr) : Except Reject Instr :=
  match operands with
  | [] => .ok i
  | _ => .error (.operandsDoNotFit op)

/-- The form `u32`. -/
def formU32 (op : Byte) (operands : List Operand) (i : U32 → Instr) : Except Reject Instr :=
  match operands with
  | [.u32 v] => .ok (i v)
  | _ => .error (.operandsDoNotFit op)

/-- The form `u16`. -/
def formU16 (op : Byte) (operands : List Operand) (i : U16 → Instr) : Except Reject Instr :=
  match operands with
  | [.u16 v] => .ok (i v)
  | _ => .error (.operandsDoNotFit op)

/-- The form `bytes`. -/
def formBytes (op : Byte) (operands : List Operand) (i : List Byte → Instr) : Except Reject Instr :=
  match operands with
  | [.bytes s] => accept op (i s)
  | _ => .error (.operandsDoNotFit op)

/-- The form `bytes, u16`. -/
def formBytesU16 (op : Byte) (operands : List Operand) (i : List Byte → U16 → Instr) : Except Reject Instr :=
  match operands with
  | [.bytes s, .u16 v] => accept op (i s v)
  | _ => .error (.operandsDoNotFit op)

/-- A host request: the operation its code names, with the operands R109 lists for it (R108 to R111). -/
def decodeRequest (op : Byte) (operands : List Operand) : Except Reject Instr :=
  match HostOp.ofCode op with
  | none => .error (.undefinedOperation op)
  | some .setTimeout => formU32 op operands .setTimeout
  | some .getTimeout => formNone op operands .getTimeout
  | some .exchange => formBytesU16 op operands .exchange
  | some .getStatus => formNone op operands .getStatus
  | some .getRespLen => formNone op operands .getRespLen
  | some .readResp => formU16 op operands .readResp
  | some .checksum => formBytes op operands .checksum
  | some .encodeFrame => formBytes op operands .encodeFrame
  | some .isAck => formBytes op operands .isAck
  | some .decodeFrame => formBytesU16 op operands .decodeFrame
  | some .timeoutX2 => formNone op operands .timeoutX2

/-- Bytes from the remote that are exactly one unit of the table: the ACK frame, a header or a trailer (R92 to R95).
A 5-byte unit with `FF FF` after the preamble is no normal header: it is the start of an extended one (R98). -/
def decodeReceived (bytes : List Byte) : Except Reject Instr :=
  match bytes with
  | [dcs, post] => if post = postamble then .ok (.frameTrailer dcs) else .error (.notAFrameUnit bytes)
  | [b0, b1, b2, len, lcs] =>
    if [b0, b1, b2] = preamble ∧ ¬(len = markerByte ∧ lcs = markerByte) then .ok (.frameNormalHeader len lcs)
    else .error (.notAFrameUnit bytes)
  | [_, _, _, _, _, _] => if bytes = ackPattern then .ok .frameAck else .error (.notAFrameUnit bytes)
  | [b0, b1, b2, m0, m1, lenh, lenl, lcs] =>
    if [b0, b1, b2] = preamble ∧ m0 = markerByte ∧ m1 = markerByte then .ok (.frameExtHeader lenh lenl lcs)
    else .error (.notAFrameUnit bytes)
  | _ => .error (.notAFrameUnit bytes)

/-- Bytes the engine sends on its own account: only the cancel sequence (R115, R185). -/
def decodeSent (bytes : List Byte) : Except Reject Instr :=
  if bytes = ackPattern then .ok .cancelSequence else .error (.notACancel bytes)

/-- The decoder: total on every packet, each rejection named. -/
def decode : Packet → Except Reject Instr
  | .request op operands => decodeRequest op operands
  | .received bytes => decodeReceived bytes
  | .sent bytes => decodeSent bytes

/-! ## Encoding -/

/-- The encoded form of an instruction, from R92 to R95 and R109. -/
def encode : Instr → Packet
  | .setTimeout t => .request HostOp.setTimeout.code [.u32 t]
  | .getTimeout => .request HostOp.getTimeout.code []
  | .exchange cmd maxLen => .request HostOp.exchange.code [.bytes cmd, .u16 maxLen]
  | .getStatus => .request HostOp.getStatus.code []
  | .getRespLen => .request HostOp.getRespLen.code []
  | .readResp i => .request HostOp.readResp.code [.u16 i]
  | .checksum s => .request HostOp.checksum.code [.bytes s]
  | .encodeFrame p => .request HostOp.encodeFrame.code [.bytes p]
  | .isAck s => .request HostOp.isAck.code [.bytes s]
  | .decodeFrame s cap => .request HostOp.decodeFrame.code [.bytes s, .u16 cap]
  | .timeoutX2 => .request HostOp.timeoutX2.code []
  | .frameAck => .received ackPattern
  | .cancelSequence => .sent ackPattern
  | .frameExtHeader lenh lenl lcs => .received (preamble ++ [markerByte, markerByte, lenh, lenl, lcs])
  | .frameNormalHeader len lcs => .received (preamble ++ [len, lcs])
  | .frameTrailer dcs => .received [dcs, postamble]

/-! ## Words as the opcode table numbers them (R103) -/

/-- The `n` bytes of a big word, "with the first byte in the most significant position" (R103). -/
def bigWordBytes (n w : Nat) : List Byte :=
  (List.range n).map fun i => BitVec.ofNat 8 (w / 256 ^ (n - 1 - i))

/-- The packet an opcode-table word stands for. An 8-bit word is an operation code with zero operands (the table gives the
operands no bits); the 8-bit word 0 names no operation and is the trailer row with its upper byte `DCS` left zero
(the table fixes only its low byte). A longer word is a frame unit in the packing of R103. Log entry 12. -/
def tablePacket (nbits w : Nat) : Packet :=
  if nbits ≤ 8 then
    if w % 256 = 0 then .received (bigWordBytes 2 0)
    else .request (BitVec.ofNat 8 w) (((HostOp.ofCode (BitVec.ofNat 8 w)).map HostOp.zeroOperands).getD [])
  else .received (bigWordBytes (nbits / 8) w)

/-- The instruction the decoder reads from an opcode-table word; `none` where it rejects. -/
def decodeTableWord (nbits w : Nat) : Option Instr :=
  (decode (tablePacket nbits w)).toOption

end Sys2Proof
end

