-- ==== Sys2Proof/Machine/State.lean ====
section
/-! DEFINITION. The state of the block as plain data (spec/10_state.md): its host-visible registers, its hidden engine
registers, the external state a model carries beside it (R45), and the model's own fields that say what the host, the
remote, the clock and the reset input do next. The reasons a step can stop, and the state right after reset (R261). -/

namespace Sys2Proof.Machine

/-! ## Register types -/

/-- `STATE` (R31). The codes 10 to 15 are "never entered", so they have no constructor. -/
inductive FsmState where
  | idle | sending | awaitingAck | awaitingResponseHeader | awaitingResponseLength
  | awaitingPayload | awaitingTrailer | done | failed | cancelling
deriving DecidableEq, Repr

/-- `KIND` (R33). -/
inductive Kind where
  | none | ok | timeout | protocolError
deriving DecidableEq, Repr

/-- The reason codes of R221, by name. `truncated` is a codec result only (R222). -/
inductive Reason where
  | none
  | toAck | toHeader | toExtLen | toPayload | toTrailer
  | peAckMismatch | pePreamble | peLcsNormal | peLcsExtended | peLengthOverCapacity | peDcs | pePostamble
  | truncated
deriving DecidableEq, Repr

/-- `FORM` (R43). -/
inductive Form where
  | normal | extended
deriving DecidableEq, Repr

/-- `DST` (R41): the buffer a block read fills and the offset it starts at. -/
inductive Dst where
  /-- `HB@0` -/
  | hb0
  /-- `HB@5` -/
  | hb5
  /-- `RESP@0` -/
  | resp0
  /-- `TB@0` -/
  | tb0
deriving DecidableEq, Repr

/-- The response buffer's contents as written bytes by index (R37), strictly rising. An index that is not listed has not been
written since reset and reads as the unspecified reset byte of R261. -/
abbrev Memory := List Host.Cell

/-! ## What the host sees -/

/-- The result of `DECODE_FRAME` (R146): `Ok(P, c)` or `Err(r)`. -/
inductive DecodeResult where
  | ok (payload : List Byte) (consumed : Nat)
  | err (reason : Reason)
deriving DecidableEq, Repr

/-- The typed result of a host operation (R108, R109). -/
inductive Result where
  /-- The operation is complete and its row of R109 gives it no result. -/
  | none
  | u32 (v : U32)
  | u16 (v : U16)
  | u8 (v : Byte)
  | bool (b : Bool)
  | bytes (s : List Byte)
  | decoded (r : DecodeResult)
deriving DecidableEq, Repr

/-- One answer the block gives the host: which operation returned, and what. -/
structure Reply where
  op : HostOp
  result : Result
deriving DecidableEq, Repr

/-! ## What happens next -/

/-- One turn of the schedule: which of the agents of R3 moves, or that the reset input is asserted (R260). -/
inductive Turn where
  /-- An encoded unit is presented: the host requests an operation, the remote delivers bytes, or the engine's own transmit
  action is called for. -/
  | packet (p : Packet)
  /-- The engine takes its step, if one is enabled (R171 to R187). -/
  | engine
  /-- The clock advances by one millisecond (R246). -/
  | tick
  /-- Power-on, or the reset input (R260, R263). -/
  | reset
  /-- The reset input, coming while the engine writes, when `sent` bytes of that write are on `TX` (R263; log entry 22). -/
  | resetInWrite (sent : Nat)
deriving DecidableEq, Repr

/-- Why the machine stops with an error. -/
inductive Fault where
  /-- A block read stores a byte at an offset outside the buffer `DST` names. Raised by `storeByte` alone. `MemWrite(RESP, i, ..)`
  requires `i < 265` (R61) and `HB`, `TB` have 8 and 2 bytes (R40). No state an exchange reaches raises it. Safe. -/
  | bufferOverrun (dst : Dst) (offset : Nat)
deriving DecidableEq, Repr

/-- Why a request has no meaning. A refused request "changes no state and returns no result" (R110). -/
inductive Refusal where
  /-- An instruction whose arm of `exec` has no meaning yet. Raised by `exec` alone. Safe. -/
  | notModelled (mnemonic : String)
  /-- The operation code names no operation (R110). Raised by the fetch of a host request. Safe. -/
  | undefinedOperation (op : Byte)
  /-- The operands are not the ones R109 gives the operation. Raised by the fetch of a host request. Safe. -/
  | operandsDoNotFit (op : Byte)
  /-- A byte sequence longer than the operation can express (R111). Raised by the fetch of a host request. Safe. -/
  | sequenceTooLong (op : Byte)
  /-- `EXCHANGE` with `maxLen > 265` (R111, D19). Raised by `execExchange`. Safe. -/
  | exchangeOverCapacity (maxLen : U16)
  /-- `READ_RESP i` with `i >= 265` (R128, D39). Raised by `execReadResp`. Safe. -/
  | respIndexOutOfRange (i : U16)
  /-- A transmit action that is not the cancel sequence: the engine has no such action (R115). Raised by the fetch of a
  scheduled transmit action. Safe. -/
  | notAnEngineAction (bytes : List Byte)
deriving DecidableEq, Repr

/-! ## The state -/

/-- The whole machine. -/
structure State where
  /-- The OPEN parameters (R10). No step changes them. -/
  params : Params
  /-- `TIMEOUT` in milliseconds (R30). -/
  timeout : U32
  /-- `STATE` (R31). -/
  fsm : FsmState
  /-- `KIND` (R33). -/
  kind : Kind
  /-- `REASON` (R34). -/
  reason : Reason
  /-- `RESP_LEN` (R36). -/
  respLen : U16
  /-- `RESP[0..265)` (R37). -/
  resp : Memory
  /-- `CMD` (R38). -/
  cmd : List Byte
  /-- `MAXLEN` (R39). -/
  maxLen : U16
  /-- `HB[0..8)` (R40). -/
  hb : Vector Byte 8
  /-- `TB[0..2)` (R40). -/
  tb : Vector Byte 2
  /-- `NEED` (R41). -/
  need : U16
  /-- `CNT` (R41). -/
  cnt : U16
  /-- `DST` (R41). -/
  dst : Dst
  /-- `T0` (R42). -/
  t0 : U32
  /-- `TS` (R42). -/
  ts : U32
  /-- `FORM` (R43). -/
  form : Form
  /-- `DECL_LEN` (R43). -/
  declLen : U16
  /-- `PEND_REASON` (R44). -/
  pendReason : Reason
  /-- `TX`: "the sequence of every byte written to the transport since reset, in order" (R45). -/
  tx : List Byte
  /-- `RX`: the receive queue, oldest byte first (R45, R67). -/
  rx : List Byte
  /-- `CLK` (R45, R245). -/
  clk : U32
  /-- The answers given to the host, oldest first (R108; log entry 5). -/
  replies : List Reply
  /-- Requests held while the block is busy, oldest first (R129; log entry 6). -/
  held : List Packet
  /-- What happens next, first turn first; when it is empty the engine runs while it can and the clock runs when it cannot
  (the model's own field, log entry 4). -/
  agenda : List Turn
  /-- How many resets there have been since power-on: the index of the unspecified reset values (the model's own field,
  log entry 3). -/
  resets : Nat
deriving DecidableEq, Repr

/-- The machine right after power-on (R261): the values the table gives, the unspecified values of `RESP_LEN` and `RESP` as
free values, zero for the hidden registers no rule reads before an exchange writes them (log entry 7), `TX` and `RX`
empty and `CLK` a free value (log entry 8), and nothing scheduled. -/
def State.reset : State where
  params := Config.params
  timeout := Config.params.timeoutReset
  fsm := .idle
  kind := .none
  reason := .none
  respLen := Config.respLenReset 0
  resp := []
  cmd := []
  maxLen := 0
  hb := Vector.replicate 8 0
  tb := Vector.replicate 2 0
  need := 0
  cnt := 0
  dst := .hb0
  t0 := 0
  ts := 0
  form := .normal
  declLen := 0
  pendReason := .none
  tx := []
  rx := []
  clk := Config.clkPowerOn
  replies := []
  held := []
  agenda := []
  resets := 0

end Sys2Proof.Machine
end

