-- ==== Sys2Proof/Machine/Flags.lean ====
section
/-! DEFINITION. The flag-like state (R47): the codes of `STATE`, `KIND` and `REASON`, the status word they make up, when the
block is busy, and which timeout reason belongs to which phase. -/

namespace Sys2Proof.Machine

/-- The 4-bit code of `STATE` (R31). -/
def FsmState.code : FsmState → BitVec 4
  | .idle => 0
  | .sending => 1
  | .awaitingAck => 2
  | .awaitingResponseHeader => 3
  | .awaitingResponseLength => 4
  | .awaitingPayload => 5
  | .awaitingTrailer => 6
  | .done => 7
  | .failed => 8
  | .cancelling => 9

/-- The 2-bit code of `KIND` (R33). -/
def Kind.code : Kind → BitVec 2
  | .none => 0
  | .ok => 1
  | .timeout => 2
  | .protocolError => 3

/-- The 8-bit reason code (R221). -/
def Reason.code : Reason → BitVec 8
  | .none => 0x00
  | .toAck => 0x01
  | .toHeader => 0x02
  | .toExtLen => 0x03
  | .toPayload => 0x04
  | .toTrailer => 0x05
  | .peAckMismatch => 0x11
  | .pePreamble => 0x12
  | .peLcsNormal => 0x13
  | .peLcsExtended => 0x14
  | .peLengthOverCapacity => 0x15
  | .peDcs => 0x16
  | .pePostamble => 0x17
  | .truncated => 0x18

/-- The kind a reason code belongs to (R221, column "kind"); `TRUNCATED` is "codec result only". -/
def Reason.kind? : Reason → Option Kind
  | .none => Option.none
  | .toAck => some .timeout
  | .toHeader => some .timeout
  | .toExtLen => some .timeout
  | .toPayload => some .timeout
  | .toTrailer => some .timeout
  | .peAckMismatch => some .protocolError
  | .pePreamble => some .protocolError
  | .peLcsNormal => some .protocolError
  | .peLcsExtended => some .protocolError
  | .peLengthOverCapacity => some .protocolError
  | .peDcs => some .protocolError
  | .pePostamble => some .protocolError
  | .truncated => Option.none

/-- The block is *busy* in these states and *ready* in `Idle`, `Done` and `Failed` (R32). -/
def FsmState.busy : FsmState → Bool
  | .idle => false
  | .sending => true
  | .awaitingAck => true
  | .awaitingResponseHeader => true
  | .awaitingResponseLength => true
  | .awaitingPayload => true
  | .awaitingTrailer => true
  | .done => false
  | .failed => false
  | .cancelling => true

/-- The reason a timed-out block read raises in each reading state (R188); no other state has a block read (R173). -/
def FsmState.timeoutReason? : FsmState → Option Reason
  | .idle => none
  | .sending => none
  | .awaitingAck => some .toAck
  | .awaitingResponseHeader => some .toHeader
  | .awaitingResponseLength => some .toExtLen
  | .awaitingPayload => some .toPayload
  | .awaitingTrailer => some .toTrailer
  | .done => none
  | .failed => none
  | .cancelling => none

/-- The status word: `KIND` in bits 1:0, `REASON` in bits 15:8, `STATE` in bits 19:16, the other bits 0 (R35, R125). -/
def statusWord (s : State) : U32 :=
  (s.fsm.code.setWidth 32 <<< 16) ||| (s.reason.code.setWidth 32 <<< 8) ||| s.kind.code.setWidth 32

end Sys2Proof.Machine
end

