-- ==== Sys2Proof/Machine/Ops.lean ====
section
/-! DEFINITION. The named operations every meaning and every engine step is built from: the response buffer
(spec/20_memory.md R61), the transport port (R64 to R68), the clock port (R245 to R247), replies and held requests, the
start of a block read (R172), the two ways an exchange fails and the one way it succeeds (R185 to R190, R230), reset. -/

namespace Sys2Proof.Machine

/-! ## Memory: written bytes by index, in one canonical form -/

/-- The byte written at `i`, `none` if nothing has written it since reset. -/
def Memory.read? (m : Memory) (i : Nat) : Option Byte :=
  match m with
  | [] => none
  | (a, b) :: rest => if a = i then some b else Memory.read? rest i

/-- Writes one byte, keeping the list strictly rising. -/
def Memory.write (m : Memory) (i : Nat) (v : Byte) : Memory :=
  match m with
  | [] => [(i, v)]
  | (a, b) :: rest =>
    if i < a then (i, v) :: (a, b) :: rest
    else if i = a then (i, v) :: rest
    else (a, b) :: Memory.write rest i v

/-- The canonical form: indices strictly rising, all of them inside `RESP` (R37, R75). An unlisted index reads as no written
byte, so no entry can repeat what an unlisted one reads as. -/
def Memory.wf (m : Memory) : Bool :=
  decide (m.Pairwise fun x y => x.1 < y.1) && m.all fun x => decide (x.1 < respBufCap)

/-! ## The response buffer -/

/-- `MemRead(RESP, i, 1)` (R61): the byte written there, or the unspecified reset byte (R62, R261). -/
def respByte (s : State) (i : Nat) : Byte :=
  (Memory.read? s.resp i).getD (Config.respByteReset s.resets i)

/-- `RESP[0..n)`. -/
def respBytes (s : State) (n : Nat) : List Byte :=
  (List.range n).map (respByte s)

/-! ## The buffers a block read fills (R40, R41, R173) -/

/-- Stores one byte at offset `j` of the buffer `d` names; `none` where the buffer has no such byte. -/
def storeByte (s : State) (d : Dst) (j : Nat) (b : Byte) : Option State :=
  match d with
  | .hb0 => if j < 8 then some { s with hb := s.hb.setIfInBounds j b } else none
  | .hb5 => if 5 + j < 8 then some { s with hb := s.hb.setIfInBounds (5 + j) b } else none
  | .resp0 => if j < respBufCap then some { s with resp := Memory.write s.resp j b } else none
  | .tb0 => if j < 2 then some { s with tb := s.tb.setIfInBounds j b } else none

/-- "`for j in 0..k-1: write b[j] at DST offset CNT + j`" (R173), in increasing order (R61). -/
def storeBytes (s : State) (d : Dst) (j : Nat) : List Byte → Host.Outcome State Fault Refusal
  | [] => .next s
  | b :: rest =>
    match storeByte s d j b with
    | some s' => storeBytes s' d (j + 1) rest
    | none => .fault (.bufferOverrun d j)

/-- Continues with `k` after a next state; a fault or a refusal stays. -/
def andThen (o : Host.Outcome State Fault Refusal) (k : State → Host.Outcome State Fault Refusal) :
    Host.Outcome State Fault Refusal :=
  match o with
  | .next s => k s
  | .fault r => .fault r
  | .refused r => .refused r

/-! ## The transport port -/

/-- `TxWrite(b)` (R64): "appends the byte sequence to `TX`. The write always succeeds". -/
def txWrite (s : State) (b : List Byte) : State :=
  { s with tx := s.tx ++ b }

/-- How many bytes a poll takes: "`k = min(|RX|, NEED - CNT)`" (R65). -/
def takeCount (s : State) : Nat :=
  min s.rx.length (s.need.toNat - s.cnt.toNat)

/-- `RxTake(k)` (R65): removes the first `k` bytes of `RX`; the bytes themselves are `s.rx.take k`. -/
def rxTake (s : State) (k : Nat) : State :=
  { s with rx := s.rx.drop k }

/-- `RxFlush()` (R66): "discards exactly the bytes in `RX` when it runs". -/
def rxFlush (s : State) : State :=
  { s with rx := [] }

/-- The bytes of `b` that still fit into `RX` (R68): all of them when its capacity is unbounded. -/
def rxFits (s : State) (b : List Byte) : List Byte :=
  match s.params.rxDepth with
  | none => b
  | some depth => b.take (depth - s.rx.length)

/-- The remote appends bytes to the tail of `RX` (R67); "a byte the remote sends while `RX` is full is lost" (R68). -/
def deliver (s : State) (b : List Byte) : State :=
  { s with rx := s.rx ++ rxFits s b }

/-! ## The clock port -/

/-- `elapsed(t) = (Now() - t) mod 2^32` (R247). -/
def elapsed (s : State) (t : U32) : U32 :=
  s.clk - t

/-- The clock advances by one millisecond and wraps to 0 after `2^32 - 1` (R246). -/
def tick (s : State) : State :=
  { s with clk := s.clk + 1 }

/-- "`elapsed(T0) >= TIMEOUT`" (R174). -/
def windowExpired (s : State) : Bool :=
  decide (s.timeout ≤ elapsed s s.t0)

/-- "`elapsed(TS) >= CANCEL_SETTLE_MS`" (R186). -/
def cancelSettled (s : State) : Bool :=
  decide (s.params.cancelSettleMs ≤ (elapsed s s.ts).toNat)

/-! ## The host interface -/

/-- The block answers the host (R108). -/
def reply (s : State) (op : HostOp) (r : Result) : State :=
  { s with replies := s.replies ++ [⟨op, r⟩] }

/-- The request waits: "neither performed nor refused until the engine reaches a ready state" (R129). -/
def hold (s : State) (i : Instr) : State :=
  { s with held := s.held ++ [encode i] }

/-- In a ready state the held requests are presented again, oldest first, before anything else (R129; log entry 6). -/
def liftHeld (s : State) : State :=
  if s.fsm.busy then s
  else { s with agenda := s.held.map Turn.packet ++ s.agenda, held := [] }

/-! ## Block reads and the ends of an exchange -/

/-- `BeginRead(n, dst)` in the state that reads (R172): "`NEED <- n; CNT <- 0; DST <- dst; T0 <- Now()`". -/
def beginRead (s : State) (reading : FsmState) (n : U16) (d : Dst) : State :=
  { s with fsm := reading, need := n, cnt := 0, dst := d, t0 := s.clk }

/-- `EXCHANGE` returns the status word as the engine reaches `Done` or `Failed` (R170). -/
def returnStatus (s : State) : State :=
  reply s .exchange (.u32 (statusWord s))

/-- `fail(k, r)` (R230): "`KIND <- k; REASON <- r; STATE <- Failed`", and `EXCHANGE` returns. This is where every failure of
an exchange ends; no return operation exists, the next `EXCHANGE` is accepted from `Failed` (R233). -/
def fail (s : State) (k : Kind) (r : Reason) : State :=
  returnStatus { s with kind := k, reason := r, fsm := .failed }

/-- Raising `ProtocolError(r)`: the exchange ends in the same step, with no write, no flush and no sleep (R189). -/
def protocolError (s : State) (r : Reason) : State :=
  fail s .protocolError r

/-- Raising `Timeout(r)`, the cancel entry (R185): "`TxWrite(ACK); TS <- Now(); PEND_REASON <- r; STATE <- Cancelling`". -/
def cancelEntry (s : State) (r : Reason) : State :=
  txWrite { s with ts := s.clk, pendReason := r, fsm := .cancelling } ackPattern

/-- The cancel end (R187): "`RxFlush(); fail(TIMEOUT, PEND_REASON)`". -/
def cancelEnd (s : State) : State :=
  fail (rxFlush s) .timeout s.pendReason

/-- Success (R190): "`RESP_LEN <- DECL_LEN; KIND <- OK; REASON <- R_NONE; STATE <- Done`", and `EXCHANGE` returns. -/
def succeed (s : State) : State :=
  returnStatus { s with respLen := s.declLen, kind := .ok, reason := .none, fsm := .done }

/-! ## Reset -/

/-- The reset input (R260, R261, R263): every register takes its reset value, with no cancel and no flush; the external state
`TX`, `RX`, `CLK` is not touched (R262), nor is what the other agents are about to do. The unspecified values are new
free values (log entry 3). The block is `Idle`, so requests held until now are presented again (log entry 6).
An exchange it ends is given no answer (log entry 21). What of the command frame is on `TX` by then stays there: none of it, all
of it, or, where the reset comes inside the write (`resetInWrite`), part of it. -/
def resetInput (s : State) : State :=
  liftHeld
    { State.reset with
      params := s.params
      timeout := s.params.timeoutReset
      respLen := Config.respLenReset (s.resets + 1)
      tx := s.tx
      rx := s.rx
      clk := s.clk
      replies := s.replies
      held := s.held
      agenda := s.agenda
      resets := s.resets + 1 }

end Sys2Proof.Machine
end

