-- ==== Sys2Proof/Machine/Operands.lean ====
section
/-! DEFINITION. What an operation requires before it runs: a ready block (spec/40_linkconfig.md R129) and an operand the block
accepts (spec/30_encoding.md R111, R128). The readiness check comes first, so an illegal request too is held while busy;
one whose operands do not fit is no instruction and never gets here (`runRejected`, log entry 20). -/

namespace Sys2Proof.Machine

/-- "`require ready`" (R129): while the block is busy the request `i` is held, otherwise it goes on. -/
def whenReady (i : Instr) (s : State) (go : Host.Outcome State Fault Refusal) : Host.Outcome State Fault Refusal :=
  if s.fsm.busy then .next (hold s i) else go

/-- "`require i < RESP_BUF_CAP`" (R127, R128). -/
def requireRespIndex (i : U16) (go : Host.Outcome State Fault Refusal) : Host.Outcome State Fault Refusal :=
  if i.toNat < respBufCap then go else .refused (.respIndexOutOfRange i)

/-- "`require maxLen <= RESP_BUF_CAP`" (R170, R111). -/
def requireCapacity (maxLen : U16) (go : Host.Outcome State Fault Refusal) : Host.Outcome State Fault Refusal :=
  if maxLen.toNat ≤ respBufCap then go else .refused (.exchangeOverCapacity maxLen)

end Sys2Proof.Machine
end

