-- ==== Sys2Proof/Machine/Codec.lean ====
section
/-! DEFINITION. The Frame Codec (spec/41_frame_codec.md): its four pure functions, which the engine uses too, and the meanings
of the host operations that call them. They read only their operands and are never held (R129). -/

namespace Sys2Proof.Machine

/-- `sum(s)`: "the integer sum of all bytes" (R13). -/
def byteSum : List Byte → Nat
  | [] => 0
  | b :: rest => b.toNat + byteSum rest

/-- `CHECKSUM(s) = (0 - sum(s)) mod 256` (R140, R15): computed in the integers, narrowed at the end. -/
def checksum (s : List Byte) : Byte :=
  BitVec.ofInt 8 (0 - (byteSum s : Int))

/-- "sums to 0 mod 256" (R99, R100). -/
def sumsToZero (s : List Byte) : Bool :=
  byteSum s % 256 == 0

/-- The header of a frame with `n` payload bytes (R92, R93, R97): the normal form up to 255, else the extended form with its
length big-endian (R69). -/
def frameHeader (n : Nat) : List Byte :=
  if n ≤ normalMax then
    preamble ++ [BitVec.ofNat 8 n, checksum [BitVec.ofNat 8 n]]
  else
    let hi := BitVec.ofNat 8 (n / 256)
    let lo := BitVec.ofNat 8 n
    preamble ++ [markerByte, markerByte, hi, lo, checksum [hi, lo]]

/-- `ENCODE_FRAME(p)` (R143): "`return hdr ++ p ++ [CHECKSUM(p), 00]`". -/
def encodeFrame (p : List Byte) : List Byte :=
  frameHeader p.length ++ p ++ [checksum p, postamble]

/-- `IS_ACK(s)` (R145): "true iff bytes exactly equal" the pattern. -/
def isAckFrame (s : List Byte) : Bool :=
  s == ackPattern

/-- `s[i]` (R13), for `i < |s|`. -/
def byteAt (s : List Byte) (i : Nat) : Byte :=
  s.getD i 0

/-- The declared length of an extended header: "`h[5] * 256 + h[6]`", big-endian (R101, R69). -/
def extendedLength (lenh lenl : Byte) : Nat :=
  lenh.toNat * 256 + lenl.toNat

/-- The part of `DECODE_FRAME` after the length is known (R146): capacity, whole frame present, DCS, postamble, in that
order (R147). `hl` is the header's length and `len` the declared one. -/
def decodeBody (s : List Byte) (cap hl len : Nat) : DecodeResult :=
  if cap < len then .err .peLengthOverCapacity
  else if s.length < hl + len + 2 then .err .truncated
  else
    let p := (s.drop hl).take len
    if byteAt s (hl + len) ≠ checksum p then .err .peDcs
    else if byteAt s (hl + len + 1) ≠ postamble then .err .pePostamble
    else .ok p (hl + len + 2)

/-- `DECODE_FRAME(s, cap)` (R146), with the check order of R147. -/
def decodeFrame (s : List Byte) (cap : U16) : DecodeResult :=
  if s.length < 5 then .err .truncated
  else if s.take 3 ≠ preamble then .err .pePreamble
  else if byteAt s 3 = markerByte ∧ byteAt s 4 = markerByte then
    if s.length < 8 then .err .truncated
    else if sumsToZero [byteAt s 5, byteAt s 6, byteAt s 7] then
      decodeBody s cap.toNat 8 (extendedLength (byteAt s 5) (byteAt s 6))
    else .err .peLcsExtended
  else if sumsToZero [byteAt s 3, byteAt s 4] then decodeBody s cap.toNat 5 (byteAt s 3).toNat
  else .err .peLcsNormal

/-- `CHECKSUM s` as a host operation (R140). -/
def execChecksum (b : List Byte) (s : State) : Host.Outcome State Fault Refusal :=
  .next (reply s .checksum (.u8 (checksum b)))

/-- `ENCODE_FRAME p` as a host operation (R143). -/
def execEncodeFrame (p : List Byte) (s : State) : Host.Outcome State Fault Refusal :=
  .next (reply s .encodeFrame (.bytes (encodeFrame p)))

/-- `IS_ACK s` as a host operation (R145). -/
def execIsAck (b : List Byte) (s : State) : Host.Outcome State Fault Refusal :=
  .next (reply s .isAck (.bool (isAckFrame b)))

/-- `DECODE_FRAME s, cap` as a host operation (R146): "An `Err` is a result, not a failure of the block." -/
def execDecodeFrame (b : List Byte) (cap : U16) (s : State) : Host.Outcome State Fault Refusal :=
  .next (reply s .decodeFrame (.decoded (decodeFrame b cap)))

end Sys2Proof.Machine
end

