-- ==== Sys2Proof/Machine/Engine.lean ====
section
/-! DEFINITION. The Link Engine (spec/42_link_engine.md): the acceptance of `EXCHANGE` and every engine step as a transition
(R170 to R190), each named after its rule. -/

namespace Sys2Proof.Machine

/-- `EXCHANGE cmd, maxLen`: the acceptance step (R170). The engine steps below carry the exchange to its end, where it
returns the status word. -/
def execExchange (cmd : List Byte) (maxLen : U16) (s : State) : Host.Outcome State Fault Refusal :=
  whenReady (.exchange cmd maxLen) s
    (requireCapacity maxLen
      (.next { s with cmd := cmd, maxLen := maxLen, kind := .none, reason := .none, fsm := .sending }))

/-! ## Checks on a complete block (R175) -/

/-- Into the trailer (R183): "`STATE <- AwaitingTrailer; BeginRead(2, TB@0)`". -/
def enterTrailer (s : State) : State :=
  beginRead s .awaitingTrailer 2 .tb0

/-- Capacity check (R181), in the step that set `DECL_LEN`. A payload read of 0 bytes is complete at its `BeginRead`, and its
check runs in the same step (R175). -/
def capacityCheck (s : State) : State :=
  if s.maxLen < s.declLen then protocolError s .peLengthOverCapacity
  else
    let s' := beginRead s .awaitingPayload s.declLen .resp0
    if s.declLen = 0 then enterTrailer s' else s'

/-- Normal length check (R179). -/
def normalLengthCheck (s : State) : State :=
  if sumsToZero [s.hb[3], s.hb[4]] then capacityCheck { s with declLen := s.hb[3].setWidth 16 }
  else protocolError s .peLcsNormal

/-- Extended length check (R180). -/
def extendedLengthCheck (s : State) : State :=
  if sumsToZero [s.hb[5], s.hb[6], s.hb[7]] then
    capacityCheck { s with declLen := BitVec.ofNat 16 (extendedLength s.hb[5] s.hb[6]) }
  else protocolError s .peLcsExtended

/-- Form selection (R178): extended if and only if both bytes after the preamble are `FF` (R98). -/
def formSelection (s : State) : State :=
  if s.hb[3] = markerByte ∧ s.hb[4] = markerByte then
    beginRead { s with form := .extended } .awaitingResponseLength 3 .hb5
  else normalLengthCheck { s with form := .normal }

/-- ACK check (R176). -/
def ackCheck (s : State) : State :=
  if isAckFrame (s.hb.toList.take 6) then beginRead s .awaitingResponseHeader 5 .hb0
  else protocolError s .peAckMismatch

/-- Preamble check (R177). -/
def preambleCheck (s : State) : State :=
  if s.hb.toList.take 3 = preamble then formSelection s
  else protocolError s .pePreamble

/-- Trailer check (R184): the DCS before the postamble. -/
def trailerCheck (s : State) : State :=
  if s.tb[0] ≠ checksum (respBytes s s.declLen.toNat) then protocolError s .peDcs
  else if s.tb[1] ≠ postamble then protocolError s .pePostamble
  else succeed s

/-- The check rule of each reading state (R175); no other state has one. -/
def complete (s : State) : State :=
  match s.fsm with
  | .idle => s
  | .sending => s
  | .awaitingAck => ackCheck s
  | .awaitingResponseHeader => preambleCheck s
  | .awaitingResponseLength => extendedLengthCheck s
  | .awaitingPayload => enterTrailer s
  | .awaitingTrailer => trailerCheck s
  | .done => s
  | .failed => s
  | .cancelling => s

/-! ## Steps -/

/-- Clock check (R174): with the block still short and its window expired the phase's timeout is raised (R188, R185);
otherwise no further change. -/
def clockCheck (s : State) : State :=
  match s.fsm.timeoutReason? with
  | some r => if windowExpired s then cancelEntry s r else s
  | none => s

/-- What a poll does once it has taken its bytes (R173): the check rule if the block is complete, else the clock check. -/
def afterTake (s : State) : State :=
  if s.cnt = s.need then complete s else clockCheck s

/-- Poll (R173): take the buffered bytes the block read still needs, then R175 or R174. Bytes come before the clock (R226). -/
def poll (s : State) : Host.Outcome State Fault Refusal :=
  let k := takeCount s
  andThen (storeBytes (rxTake s k) s.dst s.cnt.toNat (s.rx.take k)) fun s' =>
    .next (afterTake { s' with cnt := s.cnt + BitVec.ofNat 16 k })

/-- Sending (R171): "`RxFlush(); TxWrite(ENCODE_FRAME(CMD)); STATE <- AwaitingAck; BeginRead(6, HB@0)`". The write is one atomic
step for the remote (R64, R73); only the reset input comes inside it (R263, `resetInWrite`). -/
def sendCommand (s : State) : State :=
  beginRead (txWrite (rxFlush s) (encodeFrame s.cmd)) .awaitingAck 6 .hb0

/-- One engine step. A ready engine, and a cancel whose sleep is not over (R186), have none: nothing changes (R197). -/
def engineStep (s : State) : Host.Outcome State Fault Refusal :=
  match s.fsm with
  | .idle => .next s
  | .sending => .next (sendCommand s)
  | .awaitingAck => poll s
  | .awaitingResponseHeader => poll s
  | .awaitingResponseLength => poll s
  | .awaitingPayload => poll s
  | .awaitingTrailer => poll s
  | .done => .next s
  | .failed => .next s
  | .cancelling => .next (if cancelSettled s then cancelEnd s else s)

/-- Whether the engine has an enabled step (R197): in a reading state "only when `|RX| > 0` or `elapsed(T0) >= TIMEOUT`",
in `Cancelling` only when the sleep is over. -/
def engineEnabled (s : State) : Bool :=
  match s.fsm with
  | .idle => false
  | .sending => true
  | .awaitingAck => !s.rx.isEmpty || windowExpired s
  | .awaitingResponseHeader => !s.rx.isEmpty || windowExpired s
  | .awaitingResponseLength => !s.rx.isEmpty || windowExpired s
  | .awaitingPayload => !s.rx.isEmpty || windowExpired s
  | .awaitingTrailer => !s.rx.isEmpty || windowExpired s
  | .done => false
  | .failed => false
  | .cancelling => cancelSettled s

/-- The engine's turn: one engine step, and "only an engine step lifts the hold" (R129). -/
def engineTurn (s : State) : Host.Outcome State Fault Refusal :=
  andThen (engineStep s) fun s' => .next (liftHeld s')

/-! ## The cancel sequence as an action of its own -/

/-- Whether the block read in progress has just timed out (R174): all buffered bytes taken, the block short, the window
expired. -/
def cancelDue (s : State) : Bool :=
  s.fsm.timeoutReason?.isSome && s.rx.isEmpty && decide (s.cnt < s.need) && windowExpired s

/-- `CANCEL_SEQUENCE` (R185, R115): the engine sends the 6 ACK bytes and enters the cancel. "It is invoked only when the local
read itself times out": at any other time the engine has no such step, and nothing changes (R197; log entry 11). -/
def execCancelSequence (s : State) : Host.Outcome State Fault Refusal :=
  .next (if cancelDue s then clockCheck s else s)

/-! ## A reset inside a write -/

/-- Whether an engine step would time out now: its poll leaves the block short and the window has expired (R173, R174), so it
would write the cancel's 6 bytes (R185). -/
def stepTimesOut (s : State) : Bool :=
  s.fsm.timeoutReason?.isSome && decide (s.cnt.toNat + takeCount s < s.need.toNat) && windowExpired s

/-- What the engine's step has done when only `k` bytes of what it writes are on `TX`. The flush or the take that comes before
the write has happened (R171, R173); a step that writes nothing has not begun. -/
def partOfStep (k : Nat) (s : State) : State :=
  if s.fsm = .sending then txWrite (rxFlush s) ((encodeFrame s.cmd).take k)
  else if stepTimesOut s then txWrite (rxTake s (takeCount s)) (ackPattern.take k)
  else s

/-- The reset input comes inside the engine's write: "the command frame, or part of it, may already be on `TX`" (R263). How
much of it, and that the 6 bytes of a cancel can be cut short like the frame, is left open: any `k` (log entry 22). -/
def resetInWrite (k : Nat) (s : State) : State :=
  resetInput (partOfStep k s)

end Sys2Proof.Machine
end

