-- ==== Sys2Proof/Machine/Frames.lean ====
section
/-! DEFINITION. The wire frame units as they arrive: the remote delivers their bytes to `RX` (spec/20_memory.md R67). What the
receiver makes of them is the engine's, when the block read they fall into is complete (R175): the ACK check R176, the
header verdicts R177 to R181 (the table of R104), the trailer check R184. Log entry 10. -/

namespace Sys2Proof.Machine

/-- `FRAME_ACK` (R95): the bytes `00 00 FF 00 FF 00` arrive. -/
def execFrameAck (s : State) : Host.Outcome State Fault Refusal :=
  .next (deliver s ackPattern)

/-- `FRAME_EXT_HEADER` (R93): the bytes `00 00 FF FF FF LENH LENL LCS` arrive. -/
def execFrameExtHeader (lenh lenl lcs : Byte) (s : State) : Host.Outcome State Fault Refusal :=
  .next (deliver s (preamble ++ [markerByte, markerByte, lenh, lenl, lcs]))

/-- `FRAME_NORMAL_HEADER` (R92): the bytes `00 00 FF LEN LCS` arrive. -/
def execFrameNormalHeader (len lcs : Byte) (s : State) : Host.Outcome State Fault Refusal :=
  .next (deliver s (preamble ++ [len, lcs]))

/-- `FRAME_TRAILER` (R94): the bytes `DCS 00` arrive. -/
def execFrameTrailer (dcs : Byte) (s : State) : Host.Outcome State Fault Refusal :=
  .next (deliver s [dcs, postamble])

end Sys2Proof.Machine
end

