-- ==== Sys2Proof/Machine/LinkConfig.lean ====
section
/-! DEFINITION. The configuration and status operations (spec/40_linkconfig.md): one meaning each. -/

namespace Sys2Proof.Machine

/-- The doubled timeout (R124): "`d <- 2 * zext_33(TIMEOUT); return (d > DERIVED_TIMEOUT_MAX) ? DERIVED_TIMEOUT_MAX : d`",
computed exactly. -/
def doubledTimeout (s : State) : U32 :=
  let d := 2 * s.timeout.toNat
  if s.params.derivedTimeoutMax.toNat < d then s.params.derivedTimeoutMax else BitVec.ofNat 32 d

/-- `SET_TIMEOUT t` (R120): "`require ready; TIMEOUT <- t`". -/
def execSetTimeout (t : U32) (s : State) : Host.Outcome State Fault Refusal :=
  whenReady (.setTimeout t) s (.next (reply { s with timeout := t } .setTimeout .none))

/-- `GET_TIMEOUT` (R121): "`require ready; return TIMEOUT`". -/
def execGetTimeout (s : State) : Host.Outcome State Fault Refusal :=
  whenReady .getTimeout s (.next (reply s .getTimeout (.u32 s.timeout)))

/-- `TIMEOUT_X2` (R124). -/
def execTimeoutX2 (s : State) : Host.Outcome State Fault Refusal :=
  whenReady .timeoutX2 s (.next (reply s .timeoutX2 (.u32 (doubledTimeout s))))

/-- `GET_STATUS` (R125). "Reading clears nothing." -/
def execGetStatus (s : State) : Host.Outcome State Fault Refusal :=
  whenReady .getStatus s (.next (reply s .getStatus (.u32 (statusWord s))))

/-- `GET_RESP_LEN` (R126): "`require ready; return RESP_LEN`". -/
def execGetRespLen (s : State) : Host.Outcome State Fault Refusal :=
  whenReady .getRespLen s (.next (reply s .getRespLen (.u16 s.respLen)))

/-- `READ_RESP i` (R127): "`require ready; require i < RESP_BUF_CAP; return MemRead(RESP, i, 1)`". -/
def execReadResp (i : U16) (s : State) : Host.Outcome State Fault Refusal :=
  whenReady (.readResp i) s
    (requireRespIndex i (.next (reply s .readResp (.u8 (respByte s i.toNat)))))

end Sys2Proof.Machine
end

