-- ==== Sys2Proof/Machine/Dispatch.lean ====
section
/-! DEFINITION. The dispatch: one arm per row of spec/opcode_table.json. -/

namespace Sys2Proof.Machine

def exec (i : Instr) (s : State) : Host.Outcome State Fault Refusal :=
  match i with
  | .setTimeout t => Sys2Proof.Machine.execSetTimeout t s
  | .getTimeout => Sys2Proof.Machine.execGetTimeout s
  | .exchange cmd maxLen => Sys2Proof.Machine.execExchange cmd maxLen s
  | .getStatus => Sys2Proof.Machine.execGetStatus s
  | .getRespLen => Sys2Proof.Machine.execGetRespLen s
  | .readResp idx => Sys2Proof.Machine.execReadResp idx s
  | .checksum b => Sys2Proof.Machine.execChecksum b s
  | .encodeFrame p => Sys2Proof.Machine.execEncodeFrame p s
  | .isAck b => Sys2Proof.Machine.execIsAck b s
  | .decodeFrame b cap => Sys2Proof.Machine.execDecodeFrame b cap s
  | .timeoutX2 => Sys2Proof.Machine.execTimeoutX2 s
  | .frameAck => Sys2Proof.Machine.execFrameAck s
  | .cancelSequence => Sys2Proof.Machine.execCancelSequence s
  | .frameExtHeader lenh lenl lcs => Sys2Proof.Machine.execFrameExtHeader lenh lenl lcs s
  | .frameNormalHeader len lcs => Sys2Proof.Machine.execFrameNormalHeader len lcs s
  | .frameTrailer dcs => Sys2Proof.Machine.execFrameTrailer dcs s

end Sys2Proof.Machine
end

