-- ==== Sys2Proof/Machine/Turns.lean ====
section
/-! DEFINITION. One turn of the schedule: fetching a packet and running it, the engine's, the clock's and the reset input's
turns, and what happens when nothing is scheduled. -/

namespace Sys2Proof.Machine

/-- A rejected packet. A host request the block does not know is refused by name (R110, R111). Bytes from the remote are
never refused: what is no single unit of the table arrives as raw bytes (R67). A request whose operands do not fit is refused at
once, also while the block is busy and its operation needs a ready one: only a request that decodes is held (R129). The spec
says nothing of such a request; this is the model's choice, log entry 20. -/
def runRejected (r : Reject) (s : State) : Host.Outcome State Fault Refusal :=
  match r with
  | .undefinedOperation op => .refused (.undefinedOperation op)
  | .operandsDoNotFit op => .refused (.operandsDoNotFit op)
  | .sequenceTooLong op => .refused (.sequenceTooLong op)
  | .notAFrameUnit bytes => .next (deliver s bytes)
  | .notACancel bytes => .refused (.notAnEngineAction bytes)

/-- Fetch: the packet is decoded and its instruction runs. -/
def runPacket (p : Packet) (s : State) : Host.Outcome State Fault Refusal :=
  match decode p with
  | .ok i => exec i s
  | .error r => runRejected r s

/-- One scheduled turn, already taken off the agenda. -/
def runTurn (t : Turn) (s : State) : Host.Outcome State Fault Refusal :=
  match t with
  | .packet p => runPacket p s
  | .engine => engineTurn s
  | .tick => .next (tick s)
  | .reset => .next (resetInput s)
  | .resetInWrite k => .next (resetInWrite k s)

/-- Nothing is scheduled: the engine takes its step if it has one, otherwise the clock advances (log entry 4). -/
def idleTurn (s : State) : Host.Outcome State Fault Refusal :=
  if engineEnabled s then engineTurn s else .next (tick s)

/-- The next turn: the first of the agenda, or the idle turn. -/
def nextTurn (s : State) : Host.Outcome State Fault Refusal :=
  match s.agenda with
  | [] => idleTurn s
  | t :: rest => runTurn t { s with agenda := rest }

/-- Puts a packet first on the agenda. -/
def schedulePacket (s : State) (p : Packet) : State :=
  { s with agenda := .packet p :: s.agenda }

end Sys2Proof.Machine
end

