-- ==== Sys2Proof/Machine/Step.lean ====
section
/-! DEFINITION. The step of the machine, and placing an instruction where the step fetches it. -/

namespace Sys2Proof.Machine

/-- One step: one turn of one agent (R3). -/
def step (s : State) : Host.Outcome State Fault Refusal :=
  nextTurn s

/-- The block fetches no program (R46, R80): its next instruction is the first packet of the agenda (log entry 13). -/
def State.withFetchWord (s : State) (nbits w : Nat) : State :=
  schedulePacket s (tablePacket nbits w)

end Sys2Proof.Machine
end

