-- ==== Sys2Proof/Safety.lean ====
section
/-! DEFINITION. What the claims are about: the invariant of the machine, what a block read stores, an exchange in flight
with the bytes it takes, and what the host can and cannot observe. -/

namespace Sys2Proof.Machine

/-! ## The invariant -/

/-- `STATE`, `KIND` and `REASON` agree (R31, R33, R34): no outcome while idle or busy, `OK` in `Done`, and in `Failed` a
failure kind with a reason of that kind (R221). -/
def OutcomeAgrees (f : FsmState) (k : Kind) (r : Reason) : Prop :=
  match f with
  | .done => k = .ok ∧ r = .none
  | .failed => r.kind? = some k
  | _ => k = .none ∧ r = .none

/-- The block read of each reading state (R176 to R184): its destination, its length, and that it is still short
(a complete block is checked in the step that completes it, R175). -/
def ReadAgrees (s : State) : Prop :=
  match s.fsm with
  | .awaitingAck => s.dst = .hb0 ∧ s.need = 6 ∧ s.cnt < s.need
  | .awaitingResponseHeader => s.dst = .hb0 ∧ s.need = 5 ∧ s.cnt < s.need
  | .awaitingResponseLength => s.dst = .hb5 ∧ s.need = 3 ∧ s.cnt < s.need ∧ s.form = .extended
  | .awaitingPayload => s.dst = .resp0 ∧ s.need = s.declLen ∧ s.cnt < s.need ∧ s.declLen ≤ s.maxLen
  | .awaitingTrailer => s.dst = .tb0 ∧ s.need = 2 ∧ s.cnt < s.need ∧ s.declLen ≤ s.maxLen
  | _ => True

/-- The first `n` bytes of `RESP` have been written since reset. -/
abbrev RespWritten (s : State) (n : Nat) : Prop :=
  ∀ j, j < n → (Memory.read? s.resp j).isSome

/-- The invariant every step keeps. -/
structure Inv (s : State) : Prop where
  /-- `RESP` is in its canonical form and inside its 265 bytes (R37). -/
  resp_wf : Memory.wf s.resp = true
  /-- `|CMD| <= 65535` (R38). -/
  cmd_fits : s.cmd.length ≤ payloadMax
  /-- `MAXLEN` is in 0..265 (R39). -/
  maxLen_fits : s.maxLen.toNat ≤ respBufCap
  /-- The outcome registers agree with the state (R31, R33, R34). -/
  outcome : OutcomeAgrees s.fsm s.kind s.reason
  /-- The block read registers agree with the state (R41). -/
  read : ReadAgrees s
  /-- The pending reason of a cancel is a timeout's (R44). -/
  pending : s.fsm = .cancelling → s.pendReason.kind? = some .timeout
  /-- The payload bytes received so far are in `RESP` (R182). -/
  payload : s.fsm = .awaitingPayload → RespWritten s s.cnt.toNat
  /-- The whole payload is in `RESP` when the trailer is read (R183). -/
  trailer : s.fsm = .awaitingTrailer → RespWritten s s.declLen.toNat
  /-- After a success `RESP_LEN` is in 0..265 (R36) and `RESP[0..RESP_LEN)` holds defined bytes (R62). -/
  success : s.kind = .ok → s.respLen.toNat ≤ respBufCap ∧ RespWritten s s.respLen.toNat
  /-- A request is held only while the block is busy (R129). -/
  held_busy : s.held ≠ [] → s.fsm.busy = true
  /-- Only requests that need a ready block are held (R109, R129). -/
  held_kind : ∀ p ∈ s.held, ∃ i, decode p = .ok i ∧ i.needsReady = true

/-! ## A block read in progress -/

/-- The bytes the block read in progress has received so far, in the buffer they went to (R40, R41, R182). -/
def received (s : State) : List Byte :=
  match s.fsm with
  | .awaitingAck => s.hb.toList.take s.cnt.toNat
  | .awaitingResponseHeader => s.hb.toList.take s.cnt.toNat
  | .awaitingResponseLength => (s.hb.toList.drop 5).take s.cnt.toNat
  | .awaitingPayload => respBytes s s.cnt.toNat
  | .awaitingTrailer => s.tb.toList.take s.cnt.toNat
  | _ => []

/-- The whole block, once the bytes still buffered in `RX` are taken: received bytes first, then `RX` in arrival order. -/
def block (s : State) : List Byte :=
  (received s ++ s.rx).take s.need.toNat

/-- `RX` holds every byte the block read still needs, so the next poll completes it (R175). -/
def blockBuffered (s : State) : Prop :=
  s.need.toNat - s.cnt.toNat ≤ s.rx.length

/-- What is left in `RX` when the block is complete (R65). -/
def rxAfterBlock (s : State) : List Byte :=
  s.rx.drop (s.need.toNat - s.cnt.toNat)

/-! ## What a block read stores (R40, R41, R173) -/

/-- Byte `i` of a buffer that held `old` there, once the run `b` is stored from offset `start` on (`none`: not this buffer). -/
def overlay (start : Option Nat) (b : List Byte) (i : Nat) (old : Option Byte) : Option Byte :=
  match start with
  | some j => if j ≤ i ∧ i < j + b.length then b[i - j]? else old
  | none => old

/-- Where the next byte of the block read goes in `HB`: `DST` offset `CNT` (R173). -/
def hbStart (s : State) : Option Nat :=
  match s.dst with
  | .hb0 => some s.cnt.toNat
  | .hb5 => some (5 + s.cnt.toNat)
  | .resp0 => none
  | .tb0 => none

/-- Where it goes in `TB`. -/
def tbStart (s : State) : Option Nat :=
  match s.dst with
  | .hb0 => none
  | .hb5 => none
  | .resp0 => none
  | .tb0 => some s.cnt.toNat

/-- Where it goes in `RESP`. -/
def respStart (s : State) : Option Nat :=
  match s.dst with
  | .hb0 => none
  | .hb5 => none
  | .resp0 => some s.cnt.toNat
  | .tb0 => none

/-- The buffers of `t` are those of `s` with the run `b` stored where the block read of `s` stands, and no other byte changed. -/
structure BytesStored (s t : State) (b : List Byte) : Prop where
  hb : ∀ i, t.hb.toList[i]? = overlay (hbStart s) b i s.hb.toList[i]?
  tb : ∀ i, t.tb.toList[i]? = overlay (tbStart s) b i s.tb.toList[i]?
  resp : ∀ i, Memory.read? t.resp i = overlay (respStart s) b i (Memory.read? s.resp i)

/-! ## An exchange in flight -/

/-- The bytes an engine step takes from `RX` (R173): none outside the reading states. -/
def engineTakes (s : State) : List Byte :=
  match s.fsm.timeoutReason? with
  | some _ => s.rx.take (takeCount s)
  | none => []

/-- The bytes the next step takes from `RX`: those of an engine step, if the next turn is the engine's. -/
def nextTakes (s : State) : List Byte :=
  match s.agenda with
  | [] => if engineEnabled s then engineTakes s else []
  | .engine :: _ => engineTakes s
  | .packet _ :: _ => []
  | .tick :: _ => []
  | .reset :: _ => []
  | .resetInWrite _ :: _ => if stepTimesOut s then engineTakes s else []

/-- `InFlight s b t`: from `s` the machine gets to `t` by steps that all start in a busy state, and the engine takes the bytes
`b` from `RX` on the way. Any interleaving of the remote's, the clock's, the host's and the engine's turns is some agenda
of `s` (R77). -/
inductive InFlight (s : State) : List Byte → State → Prop where
  | start : InFlight s [] s
  | next {b : List Byte} {t u : State} :
      InFlight s b t → t.fsm.busy = true → step t = .next u → InFlight s (b ++ nextTakes t) u

/-- How many bytes an extended response's header has more than a normal one's (R96). -/
def extraHeader (f : Form) : Nat :=
  match f with
  | .normal => 0
  | .extended => 3

/-- A turn by which the host asks nothing and no reset comes: the engine's, the clock's, or bytes from the remote. -/
def Turn.isQuiet : Turn → Bool
  | .packet (.received _) => true
  | .packet _ => false
  | .engine => true
  | .tick => true
  | .reset => false
  | .resetInWrite _ => false

/-! ## Reset -/

/-- A turn of the reset input. -/
def Turn.isReset : Turn → Bool
  | .packet _ => false
  | .engine => false
  | .tick => false
  | .reset => true
  | .resetInWrite _ => true

/-- The next turn is the reset input's. -/
def ResetIsNext (s : State) : Prop :=
  ∃ t rest, s.agenda = t :: rest ∧ t.isReset = true

/-- `t` is `s` with every register the spec states a reset value for at that value (R261), the clock and the parameters as they
were, and no answer given or taken back (log entries 5 and 21). -/
structure RegistersReset (s t : State) : Prop where
  fsm : t.fsm = .idle
  kind : t.kind = .none
  reason : t.reason = .none
  status : statusWord t = 0
  timeout : t.timeout = s.params.timeoutReset
  cmd : t.cmd = []
  resp : ∀ i, Memory.read? t.resp i = none
  clk : t.clk = s.clk
  params : t.params = s.params
  replies : t.replies = s.replies

/-! ## What can be observed -/

/-- The hidden engine registers whose reset value is unspecified (R39 to R44), as one value. -/
structure HiddenRegs where
  maxLen : U16
  hb : Vector Byte 8
  tb : Vector Byte 2
  need : U16
  cnt : U16
  dst : Dst
  t0 : U32
  ts : U32
  form : Form
  declLen : U16
  pendReason : Reason
deriving DecidableEq, Repr

/-- `s` with other contents of those registers. -/
def State.withHidden (s : State) (h : HiddenRegs) : State :=
  { s with
    maxLen := h.maxLen
    hb := h.hb
    tb := h.tb
    need := h.need
    cnt := h.cnt
    dst := h.dst
    t0 := h.t0
    ts := h.ts
    form := h.form
    declLen := h.declLen
    pendReason := h.pendReason }

/-- `t` looks like `s` to the host and to the remote: they differ at most in the hidden registers. -/
def State.SameVisible (s t : State) : Prop :=
  ∃ h : HiddenRegs, t = s.withHidden h

/-- Two outcomes that look alike: next states that look alike, or the same stop. -/
def OutcomeSameVisible : Host.Outcome State Fault Refusal → Host.Outcome State Fault Refusal → Prop
  | .next s, .next t => s.SameVisible t
  | .fault r, .fault q => r = q
  | .refused r, .refused q => r = q
  | _, _ => False

/-- `s` as it would be had the clock been `d` milliseconds further on all along (R246, R247). -/
def State.shiftClock (s : State) (d : U32) : State :=
  { s with clk := s.clk + d, t0 := s.t0 + d, ts := s.ts + d }

/-- The outcome with its next state shifted. -/
def outcomeShiftClock (d : U32) : Host.Outcome State Fault Refusal → Host.Outcome State Fault Refusal
  | .next s => .next (s.shiftClock d)
  | .fault r => .fault r
  | .refused r => .refused r

/-- The transitions of `STATE` in the table of R192, from `a` to `b`. -/
def FsmState.mayBecome (a b : FsmState) : Bool :=
  match a with
  | .idle => b == .sending
  | .sending => b == .awaitingAck
  | .awaitingAck => b == .awaitingResponseHeader || b == .failed || b == .cancelling
  | .awaitingResponseHeader =>
    b == .awaitingResponseLength || b == .awaitingPayload || b == .awaitingTrailer || b == .failed || b == .cancelling
  | .awaitingResponseLength => b == .awaitingPayload || b == .awaitingTrailer || b == .failed || b == .cancelling
  | .awaitingPayload => b == .awaitingTrailer || b == .cancelling
  | .awaitingTrailer => b == .done || b == .failed || b == .cancelling
  | .done => b == .sending
  | .failed => b == .sending
  | .cancelling => b == .failed

end Sys2Proof.Machine
end

