-- ==== Sys2Proof/Certificates/Slice0/Obligations.lean ====
section
/-! DEFINITION. The statements about the model, for the provers. Rule numbers are those of spec/. A free value of the model
(log entry 3) or an OPEN parameter (log entry 1) is universally quantified or left symbolic: nothing rests on its value. -/

open Sys2Proof Sys2Proof.Machine

/-! ## Encoding -/

/-- Words written out from the spec's encodings decode to the instructions they stand for: every operation code of R109, and
one word of each frame format (R92 to R95) in the packing of R103. That an 8-bit word is an operation code with zero or empty
operands, and that the word two rows share is `FRAME_ACK`, is the model's choice (log entry 12). -/
def Obligations.TableWordsDecodeToTheirRows : Prop :=
  decodeTableWord 8 0x01 = some (.setTimeout 0) ∧
  decodeTableWord 8 0x02 = some .getTimeout ∧
  decodeTableWord 8 0x03 = some (.exchange [] 0) ∧
  decodeTableWord 8 0x04 = some .getStatus ∧
  decodeTableWord 8 0x05 = some .getRespLen ∧
  decodeTableWord 8 0x06 = some (.readResp 0) ∧
  decodeTableWord 8 0x10 = some (.checksum []) ∧
  decodeTableWord 8 0x11 = some (.encodeFrame []) ∧
  decodeTableWord 8 0x12 = some (.isAck []) ∧
  decodeTableWord 8 0x13 = some (.decodeFrame [] 0) ∧
  decodeTableWord 8 0x14 = some .timeoutX2 ∧
  decodeTableWord 48 0x0000FF00FF00 = some .frameAck ∧
  decodeTableWord 64 0x0000FFFFFF0108F7 = some (.frameExtHeader 0x01 0x08 0xF7) ∧
  decodeTableWord 40 0x0000FF02FE = some (.frameNormalHeader 0x02 0xFE) ∧
  decodeTableWord 16 0xF800 = some (.frameTrailer 0xF8) ∧
  decode (.sent [0x00, 0x00, 0xFF, 0x00, 0xFF, 0x00]) = .ok .cancelSequence

/-- Decoding the encoding of any well-formed instruction gives it back, every operand included. -/
def Obligations.DecodeOfEncodeIsTheInstruction : Prop :=
  ∀ i : Instr, i.wellFormed = true → decode (encode i) = .ok i

/-- The other direction: a packet that decodes is the encoding of the well-formed instruction it decodes to, so no two
packets share a meaning. -/
def Obligations.DecodedPacketIsItsEncoding : Prop :=
  ∀ (p : Packet) (i : Instr), decode p = .ok i → encode i = p ∧ i.wellFormed = true

/-- R110: a request with an operation code that names no operation is refused by name, whatever its operands and whatever
the block is doing; a refusal carries no state and no result. -/
def Obligations.UndefinedOperationCodesAreRefused : Prop :=
  ∀ (s : State) (op : Byte) (operands : List Operand) (rest : List Turn),
    op = 0x00 ∨ (0x07 ≤ op ∧ op ≤ 0x0F) ∨ 0x15 ≤ op →
    step { s with agenda := .packet (.request op operands) :: rest } = .refused (.undefinedOperation op)

/-- The agenda is the model's own field (log entry 4). A step whose first scheduled turn is the encoding of a well-formed instruction is `exec` of that instruction in the state
with the turn taken off the agenda, and nothing else. -/
def Obligations.StepRunsTheScheduledInstruction : Prop :=
  ∀ (s : State) (i : Instr) (rest : List Turn), i.wellFormed = true →
    step { s with agenda := .packet (encode i) :: rest } = exec i { s with agenda := rest }

/-- An opcode-table word placed with `withFetchWord` (log entry 13) is what the next step runs, in the state it was placed
into. -/
def Obligations.FetchedTableWordIsWhatRuns : Prop :=
  ∀ (s : State) (nbits w : Nat) (i : Instr), decodeTableWord nbits w = some i →
    step (s.withFetchWord nbits w) = exec i s

/-! ## Frame codec -/

/-- R142: a sequence and its checksum sum to 0 mod 256, only that byte does it, and the receiver's two length checks accept
exactly the headers whose LCS is the checksum of their length bytes. -/
def Obligations.ChecksumIsTheOnlyByteThatSumsToZero : Prop :=
  (∀ s : List Byte, (byteSum s + (checksum s).toNat) % 256 = 0) ∧
  (∀ (s : List Byte) (c : Byte), (byteSum s + c.toNat) % 256 = 0 ↔ c = checksum s) ∧
  (∀ len lcs : Byte, sumsToZero [len, lcs] = true ↔ lcs = checksum [len]) ∧
  (∀ lenh lenl lcs : Byte, sumsToZero [lenh, lenl, lcs] = true ↔ lcs = checksum [lenh, lenl])

/-- R152: the checksum of a concatenation is the sum of the checksums mod 256. -/
def Obligations.ChecksumIsAdditive : Prop :=
  ∀ a b : List Byte, checksum (a ++ b) = checksum a + checksum b

/-- R153, its first claim: changing one byte of a payload changes its checksum. -/
def Obligations.ChecksumCatchesASingleByteCorruption : Prop :=
  ∀ (a b : List Byte) (x y : Byte), x ≠ y → checksum (a ++ x :: b) ≠ checksum (a ++ y :: b)

/-- R140 and R141: the values the spec works out for the checksum, and the two length checksums as formulas. -/
def Obligations.ChecksumValues : Prop :=
  (∀ s : List Byte, (checksum s).toNat = (256 - byteSum s % 256) % 256) ∧
  checksum [] = 0x00 ∧ checksum [0x80] = 0x80 ∧ checksum [0xFF, 0xFF] = 0x02 ∧ checksum [0xD5, 0x33] = 0xF8 ∧
  (∀ len : Byte, (checksum [len]).toNat = (256 - len.toNat) % 256) ∧
  (∀ lenh lenl : Byte, (checksum [lenh, lenl]).toNat = (512 - lenh.toNat - lenl.toNat) % 256)

/-- R92, R93, R97, R143: the frame of a payload, byte for byte. A payload of at most 255 bytes gets the normal form, a longer
one the extended form with its length big-endian. -/
def Obligations.EncodedFrameLayout : Prop :=
  ∀ p : List Byte, p.length ≤ payloadMax →
    (p.length ≤ 255 → ∃ n : Byte, n.toNat = p.length ∧
      encodeFrame p = [0x00, 0x00, 0xFF, n, checksum [n]] ++ p ++ [checksum p, 0x00]) ∧
    (256 ≤ p.length → ∃ hi lo : Byte, hi.toNat * 256 + lo.toNat = p.length ∧
      encodeFrame p = [0x00, 0x00, 0xFF, 0xFF, 0xFF, hi, lo, checksum [hi, lo]] ++ p ++ [checksum p, 0x00])

/-- R148: decoding an encoded frame gives the payload back and takes the whole frame. -/
def Obligations.FrameRoundTrip : Prop :=
  ∀ (p : List Byte) (cap : U16), p.length ≤ payloadMax → p.length ≤ cap.toNat →
    decodeFrame (encodeFrame p) cap = .ok p (encodeFrame p).length

/-- R150: no encoded frame is the ACK, or begins with it. -/
def Obligations.NoEncodedFrameIsAnAck : Prop :=
  ∀ p : List Byte, p.length ≤ payloadMax →
    isAckFrame (encodeFrame p) = false ∧ (encodeFrame p).take 6 ≠ ackPattern

/-- R151: the ACK pattern, decoded as a frame, fails the normal length check, whatever the capacity and whatever follows. -/
def Obligations.AckIsNoFrame : Prop :=
  ∀ (cap : U16) (rest : List Byte), decodeFrame (ackPattern ++ rest) cap = .err .peLcsNormal

/-- R146 and R104: a frame `DECODE_FRAME` accepts is exactly preamble, length field, payload within the capacity, the
payload's checksum and `00`; the extended form may carry a small payload (R107). -/
def Obligations.AcceptedFrameIsWellFormed : Prop :=
  ∀ (s p : List Byte) (cap : U16) (c : Nat), decodeFrame s cap = .ok p c ↔
    p.length ≤ cap.toNat ∧
    ((∃ n : Byte, n.toNat = p.length ∧ c = p.length + 7 ∧
        s.take c = [0x00, 0x00, 0xFF, n, checksum [n]] ++ p ++ [checksum p, 0x00]) ∨
     (∃ hi lo : Byte, hi.toNat * 256 + lo.toNat = p.length ∧ c = p.length + 10 ∧
        s.take c = [0x00, 0x00, 0xFF, 0xFF, 0xFF, hi, lo, checksum [hi, lo]] ++ p ++ [checksum p, 0x00]))

/-- R140, R143, R145, R146, R129: the codec operations complete in every state, busy or not, answer the function of their
operands, and change nothing else. -/
def Obligations.CodecOperationsAnswerInEveryState : Prop :=
  ∀ s : State,
    (∀ b, exec (.checksum b) s = .next { s with replies := s.replies ++ [⟨.checksum, .u8 (checksum b)⟩] }) ∧
    (∀ p, exec (.encodeFrame p) s = .next { s with replies := s.replies ++ [⟨.encodeFrame, .bytes (encodeFrame p)⟩] }) ∧
    (∀ b, exec (.isAck b) s =
      .next { s with replies := s.replies ++ [⟨.isAck, .bool (decide (b = [0x00, 0x00, 0xFF, 0x00, 0xFF, 0x00]))⟩] }) ∧
    (∀ b cap, exec (.decodeFrame b cap) s =
      .next { s with replies := s.replies ++ [⟨.decodeFrame, .decoded (decodeFrame b cap)⟩] })

/-! ## Configuration and status -/

/-- R120: in a ready block `SET_TIMEOUT t` writes `TIMEOUT` and nothing else of the block. -/
def Obligations.SetTimeoutWritesTheTimeout : Prop :=
  ∀ (s : State) (t : U32), s.fsm.busy = false →
    exec (.setTimeout t) s = .next { s with timeout := t, replies := s.replies ++ [⟨.setTimeout, .none⟩] }

/-- R121, R125, R126: in a ready block the status reads answer the register and change nothing else. -/
def Obligations.StatusReadsAnswerTheRegisters : Prop :=
  ∀ s : State, s.fsm.busy = false →
    exec .getTimeout s = .next { s with replies := s.replies ++ [⟨.getTimeout, .u32 s.timeout⟩] } ∧
    exec .getStatus s = .next { s with replies := s.replies ++ [⟨.getStatus, .u32 (statusWord s)⟩] } ∧
    exec .getRespLen s = .next { s with replies := s.replies ++ [⟨.getRespLen, .u16 s.respLen⟩] }

/-- R35 with the codes of R31, R33 and R221: the layout of the status word, and every value of its three fields. -/
def Obligations.StatusWordLayout : Prop :=
  ∀ s : State,
    (statusWord s).extractLsb' 0 2 = s.kind.code ∧ (statusWord s).extractLsb' 2 6 = 0 ∧
    (statusWord s).extractLsb' 8 8 = s.reason.code ∧ (statusWord s).extractLsb' 16 4 = s.fsm.code ∧
    (statusWord s).extractLsb' 20 12 = 0 ∧
    [Kind.none, .ok, .timeout, .protocolError].map Kind.code = [0, 1, 2, 3] ∧
    [Reason.none, .toAck, .toHeader, .toExtLen, .toPayload, .toTrailer].map Reason.code =
      [0x00, 0x01, 0x02, 0x03, 0x04, 0x05] ∧
    [Reason.peAckMismatch, .pePreamble, .peLcsNormal, .peLcsExtended, .peLengthOverCapacity, .peDcs, .pePostamble,
      .truncated].map Reason.code = [0x11, 0x12, 0x13, 0x14, 0x15, 0x16, 0x17, 0x18] ∧
    [FsmState.idle, .sending, .awaitingAck, .awaitingResponseHeader, .awaitingResponseLength, .awaitingPayload,
      .awaitingTrailer, .done, .failed, .cancelling].map FsmState.code = [0, 1, 2, 3, 4, 5, 6, 7, 8, 9]

/-- R124: in a ready block `TIMEOUT_X2` answers the exact double of `TIMEOUT`, saturated at `DERIVED_TIMEOUT_MAX`, and
changes nothing else. -/
def Obligations.TimeoutX2SaturatesTheDouble : Prop :=
  ∀ s : State, s.fsm.busy = false → ∃ v : U32,
    v.toNat = min (2 * s.timeout.toNat) s.params.derivedTimeoutMax.toNat ∧
    exec .timeoutX2 s = .next { s with replies := s.replies ++ [⟨.timeoutX2, .u32 v⟩] }

/-- R127: in a ready block `READ_RESP i` with `i < 265` answers byte `i` of `RESP` and changes nothing; a byte written since
reset is answered as written. -/
def Obligations.ReadRespAnswersTheByte : Prop :=
  ∀ (s : State) (i : U16), s.fsm.busy = false → i.toNat < 265 → ∃ b : Byte,
    exec (.readResp i) s = .next { s with replies := s.replies ++ [⟨.readResp, .u8 b⟩] } ∧
    ∀ v, Memory.read? s.resp i.toNat = some v → b = v

/-- R128 and R111: in a ready block the operand values the block does not accept are refused by name. -/
def Obligations.IllegalOperandsAreRefused : Prop :=
  ∀ s : State, s.fsm.busy = false →
    (∀ i : U16, 265 ≤ i.toNat → exec (.readResp i) s = .refused (.respIndexOutOfRange i)) ∧
    (∀ (cmd : List Byte) (maxLen : U16), 265 < maxLen.toNat →
      exec (.exchange cmd maxLen) s = .refused (.exchangeOverCapacity maxLen))

/-- R129: while the block is busy every operation that needs a ready block is held, legal operands or not; nothing else
changes. -/
def Obligations.BusyBlockHoldsRequests : Prop :=
  ∀ (s : State) (i : Instr), s.fsm.busy = true → i.needsReady = true →
    exec i s = .next { s with held := s.held ++ [encode i] }

/-- R129: an engine step that ends in a busy state leaves the held requests held; one that ends in a ready state presents them
again, oldest first and before anything else. The place in the schedule is the model's choice (log entry 6). -/
def Obligations.EngineStepLiftsTheHold : Prop :=
  ∀ s t : State, engineStep s = .next t →
    (t.fsm.busy = true → engineTurn s = .next t) ∧
    (t.fsm.busy = false → engineTurn s = .next { t with agenda := t.held.map Turn.packet ++ t.agenda, held := [] })

/-! ## Exchange -/

/-- R170, its acceptance step: in a ready block (`Idle`, `Done` and `Failed` alike, R233) `EXCHANGE` with `maxLen <= 265`
captures its operands, clears the outcome and starts to send. -/
def Obligations.ExchangeIsAccepted : Prop :=
  ∀ (s : State) (cmd : List Byte) (maxLen : U16), s.fsm.busy = false → maxLen.toNat ≤ 265 →
    exec (.exchange cmd maxLen) s =
      .next { s with cmd := cmd, maxLen := maxLen, kind := .none, reason := .none, fsm := .sending }

/-- R171 and R172: the sending step flushes `RX`, writes the command frame and begins the 6-byte ACK read. -/
def Obligations.SendingStepSendsTheCommandFrame : Prop :=
  ∀ s : State, s.fsm = .sending →
    engineStep s = .next { s with rx := [], tx := s.tx ++ encodeFrame s.cmd, fsm := .awaitingAck,
                                  need := 6, cnt := 0, dst := .hb0, t0 := s.clk }

/-- R173, R174: a poll that finds too few bytes with the window still open takes them all, in order, and goes on reading. The
bytes stand where the block read stood; every other byte of `HB`, `TB` and `RESP`, and every other register, is as before. -/
def Obligations.ShortPollKeepsReading : Prop :=
  ∀ s : State, Inv s → s.fsm.timeoutReason?.isSome = true → ¬ blockBuffered s → windowExpired s = false →
    ∃ t : State, engineStep s = .next t ∧
      t = { s with hb := t.hb, tb := t.tb, resp := t.resp, rx := [], cnt := t.cnt } ∧
      t.cnt.toNat = s.cnt.toNat + s.rx.length ∧ BytesStored s t s.rx ∧ received t = received s ++ s.rx

/-- R174, R185, R188: a poll that finds too few bytes with the window expired takes them all, in order, sends the 6 ACK bytes,
and enters the cancel with its phase's reason. No outcome is recorded yet, and nothing else changes. -/
def Obligations.ExpiredPollEntersTheCancel : Prop :=
  ∀ (s : State) (r : Reason), Inv s → s.fsm.timeoutReason? = some r → ¬ blockBuffered s → windowExpired s = true →
    ∃ t : State, engineStep s = .next t ∧
      t = { s with hb := t.hb, tb := t.tb, resp := t.resp, rx := [], cnt := t.cnt,
                   tx := s.tx ++ [0x00, 0x00, 0xFF, 0x00, 0xFF, 0x00],
                   ts := s.clk, pendReason := r, fsm := .cancelling } ∧
      t.cnt.toNat = s.cnt.toNat + s.rx.length ∧ BytesStored s t s.rx

/-- R226: a poll that finds every byte it needs completes the block whether or not the window has expired: it takes the bytes
of the block, leaves the reading state for another than the cancel, and the timeout makes no difference. -/
def Obligations.BytesComeBeforeTheClock : Prop :=
  ∀ s : State, Inv s → s.fsm.timeoutReason?.isSome = true → blockBuffered s →
    ∃ t : State, engineStep s = .next t ∧ t.fsm ≠ s.fsm ∧ t.fsm ≠ .cancelling ∧ t.rx = rxAfterBlock s ∧
      ∀ v : U32, engineStep { s with timeout := v } = .next { t with timeout := v }

/-- R276: with `TIMEOUT = 0` a block read either completes at the poll, or enters the cancel at that poll. -/
def Obligations.ZeroTimeoutDecidesAtThePoll : Prop :=
  ∀ s : State, Inv s → s.timeout = 0 → s.fsm.timeoutReason?.isSome = true →
    ∃ t : State, engineStep s = .next t ∧ (t.fsm = .cancelling ↔ ¬ blockBuffered s) ∧ t.fsm ≠ s.fsm

/-- R176: the ACK check on the complete 6-byte block. -/
def Obligations.AckCheckVerdict : Prop :=
  ∀ s : State, Inv s → s.fsm = .awaitingAck → blockBuffered s →
    ∃ hb : Vector Byte 8, hb.toList = block s ++ s.hb.toList.drop 6 ∧
      (block s = [0x00, 0x00, 0xFF, 0x00, 0xFF, 0x00] →
        engineStep s = .next { s with hb := hb, rx := rxAfterBlock s, fsm := .awaitingResponseHeader,
                                      need := 5, cnt := 0, dst := .hb0, t0 := s.clk }) ∧
      (block s ≠ [0x00, 0x00, 0xFF, 0x00, 0xFF, 0x00] →
        engineStep s = .next { s with hb := hb, rx := rxAfterBlock s, cnt := 6, fsm := .failed,
                                      kind := .protocolError, reason := .peAckMismatch,
                                      replies := s.replies ++ [⟨.exchange, .u32 0x00081103⟩] })

/-- R177 to R179, R181 and the table of R104: the verdict on the complete 5-byte header `a b c d e`. An empty payload goes
straight to the trailer (R175). -/
def Obligations.HeaderVerdict : Prop :=
  ∀ (s : State) (a b c d e : Byte), Inv s → s.fsm = .awaitingResponseHeader → blockBuffered s →
    block s = [a, b, c, d, e] →
    ∃ hb : Vector Byte 8, hb.toList = block s ++ s.hb.toList.drop 5 ∧
      ([a, b, c] ≠ [0x00, 0x00, 0xFF] →
        engineStep s = .next { s with hb := hb, rx := rxAfterBlock s, cnt := 5, fsm := .failed,
                                      kind := .protocolError, reason := .pePreamble,
                                      replies := s.replies ++ [⟨.exchange, .u32 0x00081203⟩] }) ∧
      ([a, b, c] = [0x00, 0x00, 0xFF] → d = 0xFF → e = 0xFF →
        engineStep s = .next { s with hb := hb, rx := rxAfterBlock s, form := .extended, fsm := .awaitingResponseLength,
                                      need := 3, cnt := 0, dst := .hb5, t0 := s.clk }) ∧
      ([a, b, c] = [0x00, 0x00, 0xFF] → ¬ (d = 0xFF ∧ e = 0xFF) → (d.toNat + e.toNat) % 256 ≠ 0 →
        engineStep s = .next { s with hb := hb, rx := rxAfterBlock s, form := .normal, cnt := 5, fsm := .failed,
                                      kind := .protocolError, reason := .peLcsNormal,
                                      replies := s.replies ++ [⟨.exchange, .u32 0x00081303⟩] }) ∧
      ([a, b, c] = [0x00, 0x00, 0xFF] → (d.toNat + e.toNat) % 256 = 0 → s.maxLen.toNat < d.toNat →
        engineStep s = .next { s with hb := hb, rx := rxAfterBlock s, form := .normal, declLen := d.setWidth 16, cnt := 5,
                                      fsm := .failed, kind := .protocolError, reason := .peLengthOverCapacity,
                                      replies := s.replies ++ [⟨.exchange, .u32 0x00081503⟩] }) ∧
      ([a, b, c] = [0x00, 0x00, 0xFF] → (d.toNat + e.toNat) % 256 = 0 → 0 < d.toNat → d.toNat ≤ s.maxLen.toNat →
        engineStep s = .next { s with hb := hb, rx := rxAfterBlock s, form := .normal, declLen := d.setWidth 16,
                                      fsm := .awaitingPayload, need := d.setWidth 16, cnt := 0, dst := .resp0,
                                      t0 := s.clk }) ∧
      ([a, b, c] = [0x00, 0x00, 0xFF] → (d.toNat + e.toNat) % 256 = 0 → d.toNat = 0 →
        engineStep s = .next { s with hb := hb, rx := rxAfterBlock s, form := .normal, declLen := 0,
                                      fsm := .awaitingTrailer, need := 2, cnt := 0, dst := .tb0, t0 := s.clk })

/-- R180, R181 and the table of R104: the verdict on the complete 3-byte extended length `h l c`. -/
def Obligations.ExtendedLengthVerdict : Prop :=
  ∀ (s : State) (h l c : Byte), Inv s → s.fsm = .awaitingResponseLength → blockBuffered s → block s = [h, l, c] →
    ∃ (hb : Vector Byte 8) (len : U16), hb.toList = s.hb.toList.take 5 ++ block s ∧ len.toNat = h.toNat * 256 + l.toNat ∧
      ((h.toNat + l.toNat + c.toNat) % 256 ≠ 0 →
        engineStep s = .next { s with hb := hb, rx := rxAfterBlock s, cnt := 3, fsm := .failed,
                                      kind := .protocolError, reason := .peLcsExtended,
                                      replies := s.replies ++ [⟨.exchange, .u32 0x00081403⟩] }) ∧
      ((h.toNat + l.toNat + c.toNat) % 256 = 0 → s.maxLen < len →
        engineStep s = .next { s with hb := hb, rx := rxAfterBlock s, declLen := len, cnt := 3,
                                      fsm := .failed, kind := .protocolError, reason := .peLengthOverCapacity,
                                      replies := s.replies ++ [⟨.exchange, .u32 0x00081503⟩] }) ∧
      ((h.toNat + l.toNat + c.toNat) % 256 = 0 → 0 < len → len ≤ s.maxLen →
        engineStep s = .next { s with hb := hb, rx := rxAfterBlock s, declLen := len, fsm := .awaitingPayload,
                                      need := len, cnt := 0, dst := .resp0, t0 := s.clk }) ∧
      ((h.toNat + l.toNat + c.toNat) % 256 = 0 → len = 0 →
        engineStep s = .next { s with hb := hb, rx := rxAfterBlock s, declLen := 0, fsm := .awaitingTrailer,
                                      need := 2, cnt := 0, dst := .tb0, t0 := s.clk })

/-- R182 and R183: the complete payload stands in `RESP[0..DECL_LEN)` in arrival order, every other byte of `RESP` reads as
before, and the trailer read begins. -/
def Obligations.CompletePayloadIsInResp : Prop :=
  ∀ s : State, Inv s → s.fsm = .awaitingPayload → blockBuffered s →
    ∃ resp : Memory,
      engineStep s = .next { s with resp := resp, rx := rxAfterBlock s, fsm := .awaitingTrailer,
                                    need := 2, cnt := 0, dst := .tb0, t0 := s.clk } ∧
      ∀ i, Memory.read? resp i = if i < s.declLen.toNat then (block s)[i]? else Memory.read? s.resp i

/-- R184 and R190: the verdict on the complete trailer `d p`: the DCS first, then the postamble, then success with
`RESP_LEN`, `KIND` and the status word written. -/
def Obligations.TrailerVerdict : Prop :=
  ∀ (s : State) (d p : Byte), Inv s → s.fsm = .awaitingTrailer → blockBuffered s → block s = [d, p] →
    ∃ tb : Vector Byte 2, tb.toList = block s ∧
      (d ≠ checksum (respBytes s s.declLen.toNat) →
        engineStep s = .next { s with tb := tb, rx := rxAfterBlock s, cnt := 2, fsm := .failed,
                                      kind := .protocolError, reason := .peDcs,
                                      replies := s.replies ++ [⟨.exchange, .u32 0x00081603⟩] }) ∧
      (d = checksum (respBytes s s.declLen.toNat) → p ≠ 0x00 →
        engineStep s = .next { s with tb := tb, rx := rxAfterBlock s, cnt := 2, fsm := .failed,
                                      kind := .protocolError, reason := .pePostamble,
                                      replies := s.replies ++ [⟨.exchange, .u32 0x00081703⟩] }) ∧
      (d = checksum (respBytes s s.declLen.toNat) → p = 0x00 →
        engineStep s = .next { s with tb := tb, rx := rxAfterBlock s, cnt := 2, fsm := .done,
                                      respLen := s.declLen, kind := .ok, reason := .none,
                                      replies := s.replies ++ [⟨.exchange, .u32 0x00070001⟩] })

/-- R185, R115: `CANCEL_SEQUENCE` when the block read has just timed out sends the 6 ACK bytes, samples the clock, keeps the
phase's reason and enters `Cancelling`; it is then the engine's own step. -/
def Obligations.CancelSequenceEntersTheCancel : Prop :=
  ∀ (s : State) (r : Reason), s.fsm.timeoutReason? = some r → s.rx = [] → s.cnt < s.need → s.timeout ≤ s.clk - s.t0 →
    exec .cancelSequence s =
      .next { s with tx := s.tx ++ [0x00, 0x00, 0xFF, 0x00, 0xFF, 0x00], ts := s.clk, pendReason := r,
                     fsm := .cancelling } ∧
    engineStep s = exec .cancelSequence s

/-- R115, R197: at any other time the engine has no cancel to send, and nothing changes (the model's reading, log entry 11). -/
def Obligations.CancelSequenceOtherwiseDoesNothing : Prop :=
  ∀ s : State, s.fsm.timeoutReason? = none ∨ s.rx ≠ [] ∨ s.need ≤ s.cnt ∨ s.clk - s.t0 < s.timeout →
    exec .cancelSequence s = .next s

/-- R186 and R187: while the sleep lasts the cancelling engine does nothing; after it one step flushes `RX` and ends the
exchange with `TIMEOUT` and the pending reason, and `EXCHANGE` returns the status word: `Failed`, the reason, `TIMEOUT`. -/
def Obligations.CancelSleepsThenFlushesAndFails : Prop :=
  ∀ s : State, s.fsm = .cancelling →
    ((s.clk - s.ts).toNat < s.params.cancelSettleMs → engineStep s = .next s) ∧
    (s.params.cancelSettleMs ≤ (s.clk - s.ts).toNat →
      engineStep s = .next { s with rx := [], kind := .timeout, reason := s.pendReason, fsm := .failed,
                                    replies := s.replies ++ [⟨.exchange,
                                      .u32 (0x00080002 ||| (s.pendReason.code.setWidth 32 <<< 8))⟩] })

/-- R189: an engine step that ends an exchange with `PROTOCOL_ERROR` sends nothing, and discards nothing from `RX` beyond the
bytes of its block read. -/
def Obligations.ProtocolErrorNeverCancels : Prop :=
  ∀ s t : State, Inv s → engineStep s = .next t → s.fsm ≠ .failed → t.fsm = .failed → t.kind = .protocolError →
    t.tx = s.tx ∧ t.rx = rxAfterBlock s ∧ t.clk = s.clk ∧ t.reason.kind? = some .protocolError

/-- R197: an engine step that is not enabled changes nothing. -/
def Obligations.DisabledEngineStepChangesNothing : Prop :=
  ∀ s : State, Inv s → engineEnabled s = false → engineStep s = .next s

/-! ## The remote, the clock, reset -/

/-- R92 to R95, R67: the frame units arrive at the tail of an unbounded `RX` byte for byte, and nothing else changes. -/
def Obligations.FrameUnitsArriveInRx : Prop :=
  ∀ s : State, s.params.rxDepth = none →
    exec .frameAck s = .next { s with rx := s.rx ++ [0x00, 0x00, 0xFF, 0x00, 0xFF, 0x00] } ∧
    (∀ h l c, exec (.frameExtHeader h l c) s = .next { s with rx := s.rx ++ [0x00, 0x00, 0xFF, 0xFF, 0xFF, h, l, c] }) ∧
    (∀ n c, exec (.frameNormalHeader n c) s = .next { s with rx := s.rx ++ [0x00, 0x00, 0xFF, n, c] }) ∧
    (∀ d, exec (.frameTrailer d) s = .next { s with rx := s.rx ++ [d, 0x00] })

/-- R67, R68: any bytes the remote delivers, a unit of the table or not, arrive in order at the tail of `RX` in every state;
a bounded `RX` loses exactly the bytes that do not fit. Nothing else changes. -/
def Obligations.RemoteMayDeliverAnyBytes : Prop :=
  ∀ (s : State) (b : List Byte) (rest : List Turn),
    (s.params.rxDepth = none →
      step { s with agenda := .packet (.received b) :: rest } = .next { s with rx := s.rx ++ b, agenda := rest }) ∧
    (∀ depth, s.params.rxDepth = some depth →
      step { s with agenda := .packet (.received b) :: rest } =
        .next { s with rx := s.rx ++ b.take (depth - s.rx.length), agenda := rest })

/-- R246, R247: the clock's turn adds one millisecond mod 2^32 and changes nothing else, and elapsed time is the difference
mod 2^32. -/
def Obligations.ClockCountsMillisecondsAndWraps : Prop :=
  ∀ (s : State) (rest : List Turn), ∃ c : U32, c.toNat = (s.clk.toNat + 1) % 2 ^ 32 ∧
    step { s with agenda := .tick :: rest } = .next { s with clk := c, agenda := rest } ∧
    ∀ t : U32, (elapsed s t).toNat = (s.clk.toNat + 2 ^ 32 - t.toNat) % 2 ^ 32

/-- R261: the reset values the spec gives. `TIMEOUT` is the OPEN parameter and no byte of `RESP` has been written. -/
def Obligations.ResetValues : Prop :=
  State.reset.fsm = .idle ∧ State.reset.kind = .none ∧ State.reset.reason = .none ∧ statusWord State.reset = 0 ∧
  State.reset.timeout = State.reset.params.timeoutReset ∧ State.reset.cmd = [] ∧
  ∀ i, Memory.read? State.reset.resp i = none

/-- R262, R263: from any state, busy or not, the reset input gives every register the spec states a value for that value, and
touches neither `TX`, `RX` nor `CLK`: no cancel is sent and nothing is flushed. A reset that comes inside the engine's write leaves
the bytes written so far on `TX`: part of the command frame, after the flush of `RX` that comes before that write. That the 6 bytes
of a cancel can be cut short too (log entry 22), that the answers already given stay, and that the exchange a reset ends is given
none (log entries 5 and 21), is the model's choice. -/
def Obligations.ResetInputKeepsTheLink : Prop :=
  ∀ (s : State) (rest : List Turn),
    (∃ t : State, step { s with agenda := .reset :: rest } = .next t ∧ RegistersReset s t ∧ t.tx = s.tx ∧ t.rx = s.rx) ∧
    (∀ k : Nat, ∃ t : State, step { s with agenda := .resetInWrite k :: rest } = .next t ∧ RegistersReset s t ∧
      (s.fsm = .sending → t.tx = s.tx ++ (encodeFrame s.cmd).take k ∧ t.rx = []) ∧
      (stepTimesOut s = true → t.tx = s.tx ++ ackPattern.take k ∧ t.rx = []) ∧
      (s.fsm ≠ .sending → stepTimesOut s = false → t.tx = s.tx ∧ t.rx = s.rx))

/-! ## Whole-machine rules -/

/-- The invariant holds right after reset. -/
def Obligations.InvariantAtReset : Prop :=
  Inv State.reset

/-- Every step that answers a next state keeps the invariant, from every state, reachable or not. -/
def Obligations.EveryStepKeepsTheInvariant : Prop :=
  ∀ s t : State, Inv s → step s = .next t → Inv t

/-- R61: no step of the invariant stores outside a buffer: the machine never faults. -/
def Obligations.NoStepOverrunsABuffer : Prop :=
  ∀ (s : State) (f : Fault), Inv s → step s ≠ .fault f

/-- R192: `STATE` changes only as the transition table says, or to `Idle` by the reset input (R263). -/
def Obligations.StateFollowsTheTransitionTable : Prop :=
  ∀ s t : State, Inv s → step s = .next t →
    t.fsm = s.fsm ∨ s.fsm.mayBecome t.fsm = true ∨ (t.fsm = .idle ∧ ResetIsNext s)

/-- R30: `TIMEOUT` is written only by an accepted `SET_TIMEOUT` and by reset. -/
def Obligations.OnlySetTimeoutAndResetWriteTimeout : Prop :=
  ∀ s t : State, step s = .next t →
    t.timeout = s.timeout ∨
    (s.fsm.busy = false ∧ ∃ rest, s.agenda = .packet (encode (.setTimeout t.timeout)) :: rest) ∨
    (ResetIsNext s ∧ t.timeout = s.params.timeoutReset)

/-- R36, R182, R198: outside reset, `RESP_LEN` is written only by the success step, with `DECL_LEN`, and a byte of `RESP` only
by the payload read, below `DECL_LEN`. -/
def Obligations.ResponseRegistersAreWrittenOnlyByTheRead : Prop :=
  ∀ s t : State, Inv s → step s = .next t → ¬ ResetIsNext s →
    (t.respLen = s.respLen ∨ (s.fsm = .awaitingTrailer ∧ t.fsm = .done ∧ t.respLen = s.declLen)) ∧
    (∀ i, Memory.read? t.resp i = Memory.read? s.resp i ∨ (s.fsm = .awaitingPayload ∧ i < s.declLen.toNat))

/-- R64, R171, R185: `TX` is only appended to, and only with the frame of the command in the sending step and the 6 ACK bytes
on entering the cancel; a reset inside either write leaves the bytes written so far (R263; of the cancel the model's choice,
log entry 22). -/
def Obligations.OnlyFramesAndCancelsAreSent : Prop :=
  ∀ s t : State, step s = .next t →
    t.tx = s.tx ∨
    (s.fsm = .sending ∧ t.fsm = .awaitingAck ∧ t.tx = s.tx ++ encodeFrame s.cmd) ∨
    (s.fsm.timeoutReason?.isSome = true ∧ t.fsm = .cancelling ∧ t.tx = s.tx ++ ackPattern) ∨
    (∃ k rest, s.agenda = .resetInWrite k :: rest ∧ t.fsm = .idle ∧
      ((s.fsm = .sending ∧ t.tx = s.tx ++ (encodeFrame s.cmd).take k) ∨
        (stepTimesOut s = true ∧ t.tx = s.tx ++ ackPattern.take k)))

/-- R193: the engine's verdict on the bytes it took after the ACK is `DECODE_FRAME`'s, whatever the interleaving of the
remote, the clock, the host and the engine. -/
def Obligations.EngineVerdictIsDecodeFrame : Prop :=
  ∀ (s t : State) (b : List Byte), Inv s → s.fsm = .awaitingResponseHeader → s.cnt = 0 → InFlight s b t →
    (t.fsm = .done → decodeFrame b s.maxLen = .ok (respBytes t t.respLen.toNat) b.length) ∧
    (t.fsm = .failed → t.kind = .protocolError → decodeFrame b s.maxLen = .err t.reason) ∧
    (t.fsm = .failed → t.kind = .timeout → decodeFrame b s.maxLen = .err .truncated)

/-- R194: what one exchange appends to `TX`: its frame, and the cancel sequence once if and only if it ends in `Timeout`. -/
def Obligations.BytesSentByOneExchange : Prop :=
  ∀ (s t : State) (b : List Byte), Inv s → s.fsm = .sending → InFlight s b t →
    (t.fsm = .done → t.tx = s.tx ++ encodeFrame s.cmd) ∧
    (t.fsm = .failed → t.kind = .protocolError → t.tx = s.tx ++ encodeFrame s.cmd) ∧
    (t.fsm = .failed → t.kind = .timeout → t.tx = s.tx ++ encodeFrame s.cmd ++ ackPattern)

/-- R195: how many bytes one exchange takes from `RX` after its flush when it succeeds, and when it ends over capacity. -/
def Obligations.BytesTakenByOneExchange : Prop :=
  ∀ (s t : State) (b : List Byte), Inv s → s.fsm = .sending → InFlight s b t →
    (t.fsm = .done → b.length = 6 + 5 + extraHeader t.form + t.respLen.toNat + 2) ∧
    (t.fsm = .failed → t.reason = .peLengthOverCapacity → b.length = 11 + extraHeader t.form)

/-- R198: what a failed exchange leaves in `RESP`: the payload bytes received before the failure, from index 0 on, every other
byte as before the exchange, and `RESP_LEN` unchanged. -/
def Obligations.RespAfterAFailedExchange : Prop :=
  ∀ (s t : State) (b : List Byte), Inv s → s.fsm = .sending → InFlight s b t → t.fsm = .failed →
    t.respLen = s.respLen ∧
    ∃ k, (∀ i, i < k → Memory.read? t.resp i = b[11 + extraHeader t.form + i]?) ∧
      (∀ i, k ≤ i → Memory.read? t.resp i = Memory.read? s.resp i) ∧
      k = if t.reason = .toPayload ∨ t.reason = .toTrailer ∨ t.reason = .peDcs ∨ t.reason = .pePostamble
          then min t.declLen.toNat (b.length - (11 + extraHeader t.form)) else 0

/-- R191, end to end: from a ready state, an accepted `EXCHANGE` whose command the engine sends, and a remote that then delivers
the ACK and the frame of a payload that fits, end in `Done` with that payload in `RESP`, its length in `RESP_LEN`, the
command frame on `TX`, nothing left in `RX`, and the status word `0x00070001` answered, whatever `TIMEOUT` is. That the
engine runs on when the agenda has ended, after the delivery, is the model's choice of a schedule (log entry 4). -/
def Obligations.GoodReplyMakesTheExchangeSucceed : Prop :=
  ∀ (s : State) (cmd p : List Byte) (maxLen : U16), Inv s → s.fsm.busy = false → s.params.rxDepth = none →
    cmd.length ≤ payloadMax → p.length ≤ maxLen.toNat → maxLen.toNat ≤ 265 →
    s.agenda = [.packet (encode (.exchange cmd maxLen)), .engine, .packet (.received (ackPattern ++ encodeFrame p))] →
    ∃ (n : Nat) (t : State), core.run n s = .next t ∧ t.fsm = .done ∧ t.kind = .ok ∧
      t.respLen.toNat = p.length ∧ respBytes t p.length = p ∧ t.tx = s.tx ++ encodeFrame cmd ∧ t.rx = [] ∧
      t.replies = s.replies ++ [⟨.exchange, .u32 0x00070001⟩]

/-- R196: whatever finitely many bytes the remote delivers and however its turns, the clock's and the engine's are
interleaved in a finite agenda, the exchange in flight reaches a ready state. After the agenda the run follows the model's idle
rule, the engine if it is enabled and else the clock, which is the model's choice and stands in for the fairness R196 assumes
(log entry 4). The premise `CANCEL_SETTLE_MS < 2^32` is needed because elapsed time is taken mod 2^32 (log entry 9). -/
def Obligations.EveryExchangeEnds : Prop :=
  ∀ s : State, Inv s → s.params.cancelSettleMs < 2 ^ 32 → (∀ t ∈ s.agenda, t.isQuiet = true) →
    ∃ (n : Nat) (t : State), core.run n s = .next t ∧ t.fsm.busy = false

/-- R261: the unspecified reset values of the hidden registers are unobservable: from a ready state, other contents of them
make no difference to anything but them, in any run under any schedule. -/
def Obligations.HiddenRegistersAreUnobservable : Prop :=
  ∀ (s : State) (h : HiddenRegs) (n : Nat), s.fsm.busy = false →
    OutcomeSameVisible (core.run n s) (core.run n (s.withHidden h))

/-- R246, R247: only differences of clock values matter: shifting the clock and both samples by the same amount shifts the
next state alike, for every turn but reset. So the initial value of `CLK` (log entry 8) makes no difference. -/
def Obligations.OnlyClockDifferencesMatter : Prop :=
  ∀ (s : State) (d : U32), ¬ ResetIsNext s →
    step (s.shiftClock d) = outcomeShiftClock d (step s)
end

