-- ==== Sys2Proof/Laws/Codec.lean ====
section
/-! SUPPORT. The laws of the Frame Codec's building blocks: sums and checksums (spec/41_frame_codec.md R140 to R142). -/

namespace Sys2Proof.Machine

@[simp] theorem byteSum_nil : byteSum [] = 0 := rfl
@[simp] theorem byteSum_cons (b : Byte) (s : List Byte) : byteSum (b :: s) = b.toNat + byteSum s := rfl

@[simp] theorem byteSum_append (a b : List Byte) : byteSum (a ++ b) = byteSum a + byteSum b := by
  induction a with
  | nil => simp
  | cons x a ih => simp [ih, Nat.add_assoc]

/-- The checksum as a number: "`(256 - (sum(s) mod 256)) mod 256`" (R140). -/
theorem checksum_toNat (s : List Byte) : (checksum s).toNat = (256 - byteSum s % 256) % 256 := by
  simp only [checksum, BitVec.toNat_ofInt]
  omega

/-- `sumsToZero` says what its name says. -/
theorem sumsToZero_iff (s : List Byte) : sumsToZero s = true ↔ byteSum s % 256 = 0 := by
  simp [sumsToZero]

/-- Which byte completes a sequence to a zero sum (R142). -/
theorem byteSum_add_mod_iff (s : List Byte) (c : Byte) :
    (byteSum s + c.toNat) % 256 = 0 ↔ c.toNat = (256 - byteSum s % 256) % 256 := by
  have := c.isLt
  omega

@[simp] theorem preamble_length : preamble.length = 3 := rfl
@[simp] theorem ackPattern_length : ackPattern.length = 6 := rfl

@[simp] theorem byteAt_cons_zero (b : Byte) (s : List Byte) : byteAt (b :: s) 0 = b := rfl
@[simp] theorem byteAt_cons_succ (b : Byte) (s : List Byte) (n : Nat) : byteAt (b :: s) (n + 1) = byteAt s n := rfl

/-- A byte past the first part of a concatenation. -/
theorem byteAt_append_right (a b : List Byte) (n : Nat) : byteAt (a ++ b) (a.length + n) = byteAt b n := by
  simp [byteAt, List.getD_eq_getElem?_getD, List.getElem?_append_right]

/-- The length of the header of a frame (R96). -/
theorem frameHeader_length (n : Nat) : (frameHeader n).length = if n ≤ normalMax then 5 else 8 := by
  unfold frameHeader
  split <;> simp

/-- The length of a frame (R96): 7 bytes more than a normal payload, 10 more than an extended one. -/
theorem encodeFrame_length (p : List Byte) :
    (encodeFrame p).length = p.length + if p.length ≤ normalMax then 7 else 10 := by
  simp only [encodeFrame, List.length_append, frameHeader_length, List.length_cons, List.length_nil]
  split <;> omega

end Sys2Proof.Machine
end

