-- ==== Sys2Proof/Laws/Memory.lean ====
section
/-! SUPPORT. The laws of the written-byte memory behind `RESP`: read after write, and the canonical form is kept. -/

namespace Sys2Proof.Machine

/-- A written index reads as the written byte; every other index reads as before. -/
theorem Memory.read?_write (m : Memory) (i j : Nat) (v : Byte) :
    Memory.read? (Memory.write m i v) j = if j = i then some v else Memory.read? m j := by
  induction m with
  | nil => by_cases h : i = j <;> simp [Memory.write, Memory.read?, h, eq_comm]
  | cons x rest ih =>
    obtain ⟨a, b⟩ := x
    unfold Memory.write
    split
    · by_cases h : i = j
      · subst h; simp [Memory.read?]
      · simp [Memory.read?, h, Ne.symm h]
    · split
      · rename_i h2
        by_cases h : i = j
        · subst h; simp [Memory.read?]
        · have h3 : ¬ a = j := h2 ▸ h
          simp [Memory.read?, h, h3, Ne.symm h]
      · rename_i h2
        by_cases h : a = j
        · subst h; simp [Memory.read?, Ne.symm h2]
        · simp [Memory.read?, h, ih]

@[simp] theorem Memory.read?_write_self (m : Memory) (i : Nat) (v : Byte) :
    Memory.read? (Memory.write m i v) i = some v := by simp [Memory.read?_write]

theorem Memory.read?_write_ne (m : Memory) {i j : Nat} (v : Byte) (h : j ≠ i) :
    Memory.read? (Memory.write m i v) j = Memory.read? m j := by simp [Memory.read?_write, h]

/-- What `Memory.wf` says. -/
theorem Memory.wf_iff (m : Memory) :
    Memory.wf m = true ↔ m.Pairwise (fun x y => x.1 < y.1) ∧ ∀ x ∈ m, x.1 < respBufCap := by
  simp [Memory.wf]

/-- The indices of a written memory are the old ones and the written one. -/
theorem Memory.mem_write {m : Memory} {i : Nat} {v : Byte} {x : Host.Cell} (h : x ∈ Memory.write m i v) :
    x = (i, v) ∨ x ∈ m := by
  induction m with
  | nil => simpa [Memory.write] using h
  | cons y rest ih =>
    obtain ⟨a, b⟩ := y
    unfold Memory.write at h
    split at h
    · simpa using h
    · split at h
      · simp only [List.mem_cons] at h ⊢
        exact h.imp_right Or.inr
      · simp only [List.mem_cons] at h ⊢
        rcases h with h | h
        · exact Or.inr (Or.inl h)
        · exact (ih h).imp_right Or.inr

/-- A write inside `RESP` keeps the canonical form. -/
theorem Memory.wf_write {m : Memory} {i : Nat} (v : Byte) (h : Memory.wf m = true) (hi : i < respBufCap) :
    Memory.wf (Memory.write m i v) = true := by
  rw [Memory.wf_iff] at h ⊢
  obtain ⟨hp, hb⟩ := h
  refine ⟨?_, fun x hx => (Memory.mem_write hx).elim (fun e => e ▸ hi) (hb x)⟩
  clear hb
  induction m with
  | nil => simp [Memory.write]
  | cons y rest ih =>
    obtain ⟨a, b⟩ := y
    rw [List.pairwise_cons] at hp
    obtain ⟨hy, hr⟩ := hp
    unfold Memory.write
    split
    · rename_i hlt
      refine List.pairwise_cons.2 ⟨fun x hx => ?_, List.pairwise_cons.2 ⟨hy, hr⟩⟩
      rcases List.mem_cons.1 hx with rfl | hx
      · exact hlt
      · exact Nat.lt_trans hlt (hy x hx)
    · split
      · rename_i heq
        exact List.pairwise_cons.2 ⟨fun x hx => heq ▸ hy x hx, hr⟩
      · rename_i h1 h2
        refine List.pairwise_cons.2 ⟨fun x hx => ?_, ih hr⟩
        rcases Memory.mem_write hx with rfl | hx
        · simpa using (show a < i by omega)
        · exact hy x hx

end Sys2Proof.Machine
end

