-- ==== Sys2Proof/Laws/State.lean ====
section
/-! SUPPORT. What each named update of the state does to each field: one lemma per field per update, all true by definition.
`protocolError` and `cancelEnd` are `fail` with fixed arguments and are unfolded to it. -/

namespace Sys2Proof.Machine

variable (s : State)

@[simp] theorem protocolError_eq (r : Reason) : protocolError s r = fail s .protocolError r := rfl
@[simp] theorem cancelEnd_eq : cancelEnd s = fail (rxFlush s) .timeout s.pendReason := rfl

/-! ### `txWrite` -/

@[simp] theorem txWrite_params (b : List Byte) : (txWrite s b).params = s.params := rfl
@[simp] theorem txWrite_timeout (b : List Byte) : (txWrite s b).timeout = s.timeout := rfl
@[simp] theorem txWrite_fsm (b : List Byte) : (txWrite s b).fsm = s.fsm := rfl
@[simp] theorem txWrite_kind (b : List Byte) : (txWrite s b).kind = s.kind := rfl
@[simp] theorem txWrite_reason (b : List Byte) : (txWrite s b).reason = s.reason := rfl
@[simp] theorem txWrite_respLen (b : List Byte) : (txWrite s b).respLen = s.respLen := rfl
@[simp] theorem txWrite_resp (b : List Byte) : (txWrite s b).resp = s.resp := rfl
@[simp] theorem txWrite_cmd (b : List Byte) : (txWrite s b).cmd = s.cmd := rfl
@[simp] theorem txWrite_maxLen (b : List Byte) : (txWrite s b).maxLen = s.maxLen := rfl
@[simp] theorem txWrite_hb (b : List Byte) : (txWrite s b).hb = s.hb := rfl
@[simp] theorem txWrite_tb (b : List Byte) : (txWrite s b).tb = s.tb := rfl
@[simp] theorem txWrite_need (b : List Byte) : (txWrite s b).need = s.need := rfl
@[simp] theorem txWrite_cnt (b : List Byte) : (txWrite s b).cnt = s.cnt := rfl
@[simp] theorem txWrite_dst (b : List Byte) : (txWrite s b).dst = s.dst := rfl
@[simp] theorem txWrite_t0 (b : List Byte) : (txWrite s b).t0 = s.t0 := rfl
@[simp] theorem txWrite_ts (b : List Byte) : (txWrite s b).ts = s.ts := rfl
@[simp] theorem txWrite_form (b : List Byte) : (txWrite s b).form = s.form := rfl
@[simp] theorem txWrite_declLen (b : List Byte) : (txWrite s b).declLen = s.declLen := rfl
@[simp] theorem txWrite_pendReason (b : List Byte) : (txWrite s b).pendReason = s.pendReason := rfl
@[simp] theorem txWrite_tx (b : List Byte) : (txWrite s b).tx = s.tx ++ b := rfl
@[simp] theorem txWrite_rx (b : List Byte) : (txWrite s b).rx = s.rx := rfl
@[simp] theorem txWrite_clk (b : List Byte) : (txWrite s b).clk = s.clk := rfl
@[simp] theorem txWrite_replies (b : List Byte) : (txWrite s b).replies = s.replies := rfl
@[simp] theorem txWrite_held (b : List Byte) : (txWrite s b).held = s.held := rfl
@[simp] theorem txWrite_agenda (b : List Byte) : (txWrite s b).agenda = s.agenda := rfl
@[simp] theorem txWrite_resets (b : List Byte) : (txWrite s b).resets = s.resets := rfl

/-! ### `rxTake` -/

@[simp] theorem rxTake_params (k : Nat) : (rxTake s k).params = s.params := rfl
@[simp] theorem rxTake_timeout (k : Nat) : (rxTake s k).timeout = s.timeout := rfl
@[simp] theorem rxTake_fsm (k : Nat) : (rxTake s k).fsm = s.fsm := rfl
@[simp] theorem rxTake_kind (k : Nat) : (rxTake s k).kind = s.kind := rfl
@[simp] theorem rxTake_reason (k : Nat) : (rxTake s k).reason = s.reason := rfl
@[simp] theorem rxTake_respLen (k : Nat) : (rxTake s k).respLen = s.respLen := rfl
@[simp] theorem rxTake_resp (k : Nat) : (rxTake s k).resp = s.resp := rfl
@[simp] theorem rxTake_cmd (k : Nat) : (rxTake s k).cmd = s.cmd := rfl
@[simp] theorem rxTake_maxLen (k : Nat) : (rxTake s k).maxLen = s.maxLen := rfl
@[simp] theorem rxTake_hb (k : Nat) : (rxTake s k).hb = s.hb := rfl
@[simp] theorem rxTake_tb (k : Nat) : (rxTake s k).tb = s.tb := rfl
@[simp] theorem rxTake_need (k : Nat) : (rxTake s k).need = s.need := rfl
@[simp] theorem rxTake_cnt (k : Nat) : (rxTake s k).cnt = s.cnt := rfl
@[simp] theorem rxTake_dst (k : Nat) : (rxTake s k).dst = s.dst := rfl
@[simp] theorem rxTake_t0 (k : Nat) : (rxTake s k).t0 = s.t0 := rfl
@[simp] theorem rxTake_ts (k : Nat) : (rxTake s k).ts = s.ts := rfl
@[simp] theorem rxTake_form (k : Nat) : (rxTake s k).form = s.form := rfl
@[simp] theorem rxTake_declLen (k : Nat) : (rxTake s k).declLen = s.declLen := rfl
@[simp] theorem rxTake_pendReason (k : Nat) : (rxTake s k).pendReason = s.pendReason := rfl
@[simp] theorem rxTake_tx (k : Nat) : (rxTake s k).tx = s.tx := rfl
@[simp] theorem rxTake_rx (k : Nat) : (rxTake s k).rx = s.rx.drop k := rfl
@[simp] theorem rxTake_clk (k : Nat) : (rxTake s k).clk = s.clk := rfl
@[simp] theorem rxTake_replies (k : Nat) : (rxTake s k).replies = s.replies := rfl
@[simp] theorem rxTake_held (k : Nat) : (rxTake s k).held = s.held := rfl
@[simp] theorem rxTake_agenda (k : Nat) : (rxTake s k).agenda = s.agenda := rfl
@[simp] theorem rxTake_resets (k : Nat) : (rxTake s k).resets = s.resets := rfl

/-! ### `rxFlush` -/

@[simp] theorem rxFlush_params : (rxFlush s).params = s.params := rfl
@[simp] theorem rxFlush_timeout : (rxFlush s).timeout = s.timeout := rfl
@[simp] theorem rxFlush_fsm : (rxFlush s).fsm = s.fsm := rfl
@[simp] theorem rxFlush_kind : (rxFlush s).kind = s.kind := rfl
@[simp] theorem rxFlush_reason : (rxFlush s).reason = s.reason := rfl
@[simp] theorem rxFlush_respLen : (rxFlush s).respLen = s.respLen := rfl
@[simp] theorem rxFlush_resp : (rxFlush s).resp = s.resp := rfl
@[simp] theorem rxFlush_cmd : (rxFlush s).cmd = s.cmd := rfl
@[simp] theorem rxFlush_maxLen : (rxFlush s).maxLen = s.maxLen := rfl
@[simp] theorem rxFlush_hb : (rxFlush s).hb = s.hb := rfl
@[simp] theorem rxFlush_tb : (rxFlush s).tb = s.tb := rfl
@[simp] theorem rxFlush_need : (rxFlush s).need = s.need := rfl
@[simp] theorem rxFlush_cnt : (rxFlush s).cnt = s.cnt := rfl
@[simp] theorem rxFlush_dst : (rxFlush s).dst = s.dst := rfl
@[simp] theorem rxFlush_t0 : (rxFlush s).t0 = s.t0 := rfl
@[simp] theorem rxFlush_ts : (rxFlush s).ts = s.ts := rfl
@[simp] theorem rxFlush_form : (rxFlush s).form = s.form := rfl
@[simp] theorem rxFlush_declLen : (rxFlush s).declLen = s.declLen := rfl
@[simp] theorem rxFlush_pendReason : (rxFlush s).pendReason = s.pendReason := rfl
@[simp] theorem rxFlush_tx : (rxFlush s).tx = s.tx := rfl
@[simp] theorem rxFlush_rx : (rxFlush s).rx = [] := rfl
@[simp] theorem rxFlush_clk : (rxFlush s).clk = s.clk := rfl
@[simp] theorem rxFlush_replies : (rxFlush s).replies = s.replies := rfl
@[simp] theorem rxFlush_held : (rxFlush s).held = s.held := rfl
@[simp] theorem rxFlush_agenda : (rxFlush s).agenda = s.agenda := rfl
@[simp] theorem rxFlush_resets : (rxFlush s).resets = s.resets := rfl

/-! ### `deliver` -/

@[simp] theorem deliver_params (b : List Byte) : (deliver s b).params = s.params := rfl
@[simp] theorem deliver_timeout (b : List Byte) : (deliver s b).timeout = s.timeout := rfl
@[simp] theorem deliver_fsm (b : List Byte) : (deliver s b).fsm = s.fsm := rfl
@[simp] theorem deliver_kind (b : List Byte) : (deliver s b).kind = s.kind := rfl
@[simp] theorem deliver_reason (b : List Byte) : (deliver s b).reason = s.reason := rfl
@[simp] theorem deliver_respLen (b : List Byte) : (deliver s b).respLen = s.respLen := rfl
@[simp] theorem deliver_resp (b : List Byte) : (deliver s b).resp = s.resp := rfl
@[simp] theorem deliver_cmd (b : List Byte) : (deliver s b).cmd = s.cmd := rfl
@[simp] theorem deliver_maxLen (b : List Byte) : (deliver s b).maxLen = s.maxLen := rfl
@[simp] theorem deliver_hb (b : List Byte) : (deliver s b).hb = s.hb := rfl
@[simp] theorem deliver_tb (b : List Byte) : (deliver s b).tb = s.tb := rfl
@[simp] theorem deliver_need (b : List Byte) : (deliver s b).need = s.need := rfl
@[simp] theorem deliver_cnt (b : List Byte) : (deliver s b).cnt = s.cnt := rfl
@[simp] theorem deliver_dst (b : List Byte) : (deliver s b).dst = s.dst := rfl
@[simp] theorem deliver_t0 (b : List Byte) : (deliver s b).t0 = s.t0 := rfl
@[simp] theorem deliver_ts (b : List Byte) : (deliver s b).ts = s.ts := rfl
@[simp] theorem deliver_form (b : List Byte) : (deliver s b).form = s.form := rfl
@[simp] theorem deliver_declLen (b : List Byte) : (deliver s b).declLen = s.declLen := rfl
@[simp] theorem deliver_pendReason (b : List Byte) : (deliver s b).pendReason = s.pendReason := rfl
@[simp] theorem deliver_tx (b : List Byte) : (deliver s b).tx = s.tx := rfl
@[simp] theorem deliver_rx (b : List Byte) : (deliver s b).rx = s.rx ++ rxFits s b := rfl
@[simp] theorem deliver_clk (b : List Byte) : (deliver s b).clk = s.clk := rfl
@[simp] theorem deliver_replies (b : List Byte) : (deliver s b).replies = s.replies := rfl
@[simp] theorem deliver_held (b : List Byte) : (deliver s b).held = s.held := rfl
@[simp] theorem deliver_agenda (b : List Byte) : (deliver s b).agenda = s.agenda := rfl
@[simp] theorem deliver_resets (b : List Byte) : (deliver s b).resets = s.resets := rfl

/-! ### `tick` -/

@[simp] theorem tick_params : (tick s).params = s.params := rfl
@[simp] theorem tick_timeout : (tick s).timeout = s.timeout := rfl
@[simp] theorem tick_fsm : (tick s).fsm = s.fsm := rfl
@[simp] theorem tick_kind : (tick s).kind = s.kind := rfl
@[simp] theorem tick_reason : (tick s).reason = s.reason := rfl
@[simp] theorem tick_respLen : (tick s).respLen = s.respLen := rfl
@[simp] theorem tick_resp : (tick s).resp = s.resp := rfl
@[simp] theorem tick_cmd : (tick s).cmd = s.cmd := rfl
@[simp] theorem tick_maxLen : (tick s).maxLen = s.maxLen := rfl
@[simp] theorem tick_hb : (tick s).hb = s.hb := rfl
@[simp] theorem tick_tb : (tick s).tb = s.tb := rfl
@[simp] theorem tick_need : (tick s).need = s.need := rfl
@[simp] theorem tick_cnt : (tick s).cnt = s.cnt := rfl
@[simp] theorem tick_dst : (tick s).dst = s.dst := rfl
@[simp] theorem tick_t0 : (tick s).t0 = s.t0 := rfl
@[simp] theorem tick_ts : (tick s).ts = s.ts := rfl
@[simp] theorem tick_form : (tick s).form = s.form := rfl
@[simp] theorem tick_declLen : (tick s).declLen = s.declLen := rfl
@[simp] theorem tick_pendReason : (tick s).pendReason = s.pendReason := rfl
@[simp] theorem tick_tx : (tick s).tx = s.tx := rfl
@[simp] theorem tick_rx : (tick s).rx = s.rx := rfl
@[simp] theorem tick_clk : (tick s).clk = s.clk + 1 := rfl
@[simp] theorem tick_replies : (tick s).replies = s.replies := rfl
@[simp] theorem tick_held : (tick s).held = s.held := rfl
@[simp] theorem tick_agenda : (tick s).agenda = s.agenda := rfl
@[simp] theorem tick_resets : (tick s).resets = s.resets := rfl

/-! ### `reply` -/

@[simp] theorem reply_params (op : HostOp) (r : Result) : (reply s op r).params = s.params := rfl
@[simp] theorem reply_timeout (op : HostOp) (r : Result) : (reply s op r).timeout = s.timeout := rfl
@[simp] theorem reply_fsm (op : HostOp) (r : Result) : (reply s op r).fsm = s.fsm := rfl
@[simp] theorem reply_kind (op : HostOp) (r : Result) : (reply s op r).kind = s.kind := rfl
@[simp] theorem reply_reason (op : HostOp) (r : Result) : (reply s op r).reason = s.reason := rfl
@[simp] theorem reply_respLen (op : HostOp) (r : Result) : (reply s op r).respLen = s.respLen := rfl
@[simp] theorem reply_resp (op : HostOp) (r : Result) : (reply s op r).resp = s.resp := rfl
@[simp] theorem reply_cmd (op : HostOp) (r : Result) : (reply s op r).cmd = s.cmd := rfl
@[simp] theorem reply_maxLen (op : HostOp) (r : Result) : (reply s op r).maxLen = s.maxLen := rfl
@[simp] theorem reply_hb (op : HostOp) (r : Result) : (reply s op r).hb = s.hb := rfl
@[simp] theorem reply_tb (op : HostOp) (r : Result) : (reply s op r).tb = s.tb := rfl
@[simp] theorem reply_need (op : HostOp) (r : Result) : (reply s op r).need = s.need := rfl
@[simp] theorem reply_cnt (op : HostOp) (r : Result) : (reply s op r).cnt = s.cnt := rfl
@[simp] theorem reply_dst (op : HostOp) (r : Result) : (reply s op r).dst = s.dst := rfl
@[simp] theorem reply_t0 (op : HostOp) (r : Result) : (reply s op r).t0 = s.t0 := rfl
@[simp] theorem reply_ts (op : HostOp) (r : Result) : (reply s op r).ts = s.ts := rfl
@[simp] theorem reply_form (op : HostOp) (r : Result) : (reply s op r).form = s.form := rfl
@[simp] theorem reply_declLen (op : HostOp) (r : Result) : (reply s op r).declLen = s.declLen := rfl
@[simp] theorem reply_pendReason (op : HostOp) (r : Result) : (reply s op r).pendReason = s.pendReason := rfl
@[simp] theorem reply_tx (op : HostOp) (r : Result) : (reply s op r).tx = s.tx := rfl
@[simp] theorem reply_rx (op : HostOp) (r : Result) : (reply s op r).rx = s.rx := rfl
@[simp] theorem reply_clk (op : HostOp) (r : Result) : (reply s op r).clk = s.clk := rfl
@[simp] theorem reply_replies (op : HostOp) (r : Result) : (reply s op r).replies = s.replies ++ [⟨op, r⟩] := rfl
@[simp] theorem reply_held (op : HostOp) (r : Result) : (reply s op r).held = s.held := rfl
@[simp] theorem reply_agenda (op : HostOp) (r : Result) : (reply s op r).agenda = s.agenda := rfl
@[simp] theorem reply_resets (op : HostOp) (r : Result) : (reply s op r).resets = s.resets := rfl

/-! ### `hold` -/

@[simp] theorem hold_params (i : Instr) : (hold s i).params = s.params := rfl
@[simp] theorem hold_timeout (i : Instr) : (hold s i).timeout = s.timeout := rfl
@[simp] theorem hold_fsm (i : Instr) : (hold s i).fsm = s.fsm := rfl
@[simp] theorem hold_kind (i : Instr) : (hold s i).kind = s.kind := rfl
@[simp] theorem hold_reason (i : Instr) : (hold s i).reason = s.reason := rfl
@[simp] theorem hold_respLen (i : Instr) : (hold s i).respLen = s.respLen := rfl
@[simp] theorem hold_resp (i : Instr) : (hold s i).resp = s.resp := rfl
@[simp] theorem hold_cmd (i : Instr) : (hold s i).cmd = s.cmd := rfl
@[simp] theorem hold_maxLen (i : Instr) : (hold s i).maxLen = s.maxLen := rfl
@[simp] theorem hold_hb (i : Instr) : (hold s i).hb = s.hb := rfl
@[simp] theorem hold_tb (i : Instr) : (hold s i).tb = s.tb := rfl
@[simp] theorem hold_need (i : Instr) : (hold s i).need = s.need := rfl
@[simp] theorem hold_cnt (i : Instr) : (hold s i).cnt = s.cnt := rfl
@[simp] theorem hold_dst (i : Instr) : (hold s i).dst = s.dst := rfl
@[simp] theorem hold_t0 (i : Instr) : (hold s i).t0 = s.t0 := rfl
@[simp] theorem hold_ts (i : Instr) : (hold s i).ts = s.ts := rfl
@[simp] theorem hold_form (i : Instr) : (hold s i).form = s.form := rfl
@[simp] theorem hold_declLen (i : Instr) : (hold s i).declLen = s.declLen := rfl
@[simp] theorem hold_pendReason (i : Instr) : (hold s i).pendReason = s.pendReason := rfl
@[simp] theorem hold_tx (i : Instr) : (hold s i).tx = s.tx := rfl
@[simp] theorem hold_rx (i : Instr) : (hold s i).rx = s.rx := rfl
@[simp] theorem hold_clk (i : Instr) : (hold s i).clk = s.clk := rfl
@[simp] theorem hold_replies (i : Instr) : (hold s i).replies = s.replies := rfl
@[simp] theorem hold_held (i : Instr) : (hold s i).held = s.held ++ [encode i] := rfl
@[simp] theorem hold_agenda (i : Instr) : (hold s i).agenda = s.agenda := rfl
@[simp] theorem hold_resets (i : Instr) : (hold s i).resets = s.resets := rfl

/-! ### `schedulePacket` -/

@[simp] theorem schedulePacket_params (p : Packet) : (schedulePacket s p).params = s.params := rfl
@[simp] theorem schedulePacket_timeout (p : Packet) : (schedulePacket s p).timeout = s.timeout := rfl
@[simp] theorem schedulePacket_fsm (p : Packet) : (schedulePacket s p).fsm = s.fsm := rfl
@[simp] theorem schedulePacket_kind (p : Packet) : (schedulePacket s p).kind = s.kind := rfl
@[simp] theorem schedulePacket_reason (p : Packet) : (schedulePacket s p).reason = s.reason := rfl
@[simp] theorem schedulePacket_respLen (p : Packet) : (schedulePacket s p).respLen = s.respLen := rfl
@[simp] theorem schedulePacket_resp (p : Packet) : (schedulePacket s p).resp = s.resp := rfl
@[simp] theorem schedulePacket_cmd (p : Packet) : (schedulePacket s p).cmd = s.cmd := rfl
@[simp] theorem schedulePacket_maxLen (p : Packet) : (schedulePacket s p).maxLen = s.maxLen := rfl
@[simp] theorem schedulePacket_hb (p : Packet) : (schedulePacket s p).hb = s.hb := rfl
@[simp] theorem schedulePacket_tb (p : Packet) : (schedulePacket s p).tb = s.tb := rfl
@[simp] theorem schedulePacket_need (p : Packet) : (schedulePacket s p).need = s.need := rfl
@[simp] theorem schedulePacket_cnt (p : Packet) : (schedulePacket s p).cnt = s.cnt := rfl
@[simp] theorem schedulePacket_dst (p : Packet) : (schedulePacket s p).dst = s.dst := rfl
@[simp] theorem schedulePacket_t0 (p : Packet) : (schedulePacket s p).t0 = s.t0 := rfl
@[simp] theorem schedulePacket_ts (p : Packet) : (schedulePacket s p).ts = s.ts := rfl
@[simp] theorem schedulePacket_form (p : Packet) : (schedulePacket s p).form = s.form := rfl
@[simp] theorem schedulePacket_declLen (p : Packet) : (schedulePacket s p).declLen = s.declLen := rfl
@[simp] theorem schedulePacket_pendReason (p : Packet) : (schedulePacket s p).pendReason = s.pendReason := rfl
@[simp] theorem schedulePacket_tx (p : Packet) : (schedulePacket s p).tx = s.tx := rfl
@[simp] theorem schedulePacket_rx (p : Packet) : (schedulePacket s p).rx = s.rx := rfl
@[simp] theorem schedulePacket_clk (p : Packet) : (schedulePacket s p).clk = s.clk := rfl
@[simp] theorem schedulePacket_replies (p : Packet) : (schedulePacket s p).replies = s.replies := rfl
@[simp] theorem schedulePacket_held (p : Packet) : (schedulePacket s p).held = s.held := rfl
@[simp] theorem schedulePacket_agenda (p : Packet) : (schedulePacket s p).agenda = .packet p :: s.agenda := rfl
@[simp] theorem schedulePacket_resets (p : Packet) : (schedulePacket s p).resets = s.resets := rfl

/-! ### `beginRead` -/

@[simp] theorem beginRead_params (f : FsmState) (n : U16) (d : Dst) : (beginRead s f n d).params = s.params := rfl
@[simp] theorem beginRead_timeout (f : FsmState) (n : U16) (d : Dst) : (beginRead s f n d).timeout = s.timeout := rfl
@[simp] theorem beginRead_fsm (f : FsmState) (n : U16) (d : Dst) : (beginRead s f n d).fsm = f := rfl
@[simp] theorem beginRead_kind (f : FsmState) (n : U16) (d : Dst) : (beginRead s f n d).kind = s.kind := rfl
@[simp] theorem beginRead_reason (f : FsmState) (n : U16) (d : Dst) : (beginRead s f n d).reason = s.reason := rfl
@[simp] theorem beginRead_respLen (f : FsmState) (n : U16) (d : Dst) : (beginRead s f n d).respLen = s.respLen := rfl
@[simp] theorem beginRead_resp (f : FsmState) (n : U16) (d : Dst) : (beginRead s f n d).resp = s.resp := rfl
@[simp] theorem beginRead_cmd (f : FsmState) (n : U16) (d : Dst) : (beginRead s f n d).cmd = s.cmd := rfl
@[simp] theorem beginRead_maxLen (f : FsmState) (n : U16) (d : Dst) : (beginRead s f n d).maxLen = s.maxLen := rfl
@[simp] theorem beginRead_hb (f : FsmState) (n : U16) (d : Dst) : (beginRead s f n d).hb = s.hb := rfl
@[simp] theorem beginRead_tb (f : FsmState) (n : U16) (d : Dst) : (beginRead s f n d).tb = s.tb := rfl
@[simp] theorem beginRead_need (f : FsmState) (n : U16) (d : Dst) : (beginRead s f n d).need = n := rfl
@[simp] theorem beginRead_cnt (f : FsmState) (n : U16) (d : Dst) : (beginRead s f n d).cnt = 0 := rfl
@[simp] theorem beginRead_dst (f : FsmState) (n : U16) (d : Dst) : (beginRead s f n d).dst = d := rfl
@[simp] theorem beginRead_t0 (f : FsmState) (n : U16) (d : Dst) : (beginRead s f n d).t0 = s.clk := rfl
@[simp] theorem beginRead_ts (f : FsmState) (n : U16) (d : Dst) : (beginRead s f n d).ts = s.ts := rfl
@[simp] theorem beginRead_form (f : FsmState) (n : U16) (d : Dst) : (beginRead s f n d).form = s.form := rfl
@[simp] theorem beginRead_declLen (f : FsmState) (n : U16) (d : Dst) : (beginRead s f n d).declLen = s.declLen := rfl
@[simp] theorem beginRead_pendReason (f : FsmState) (n : U16) (d : Dst) : (beginRead s f n d).pendReason = s.pendReason := rfl
@[simp] theorem beginRead_tx (f : FsmState) (n : U16) (d : Dst) : (beginRead s f n d).tx = s.tx := rfl
@[simp] theorem beginRead_rx (f : FsmState) (n : U16) (d : Dst) : (beginRead s f n d).rx = s.rx := rfl
@[simp] theorem beginRead_clk (f : FsmState) (n : U16) (d : Dst) : (beginRead s f n d).clk = s.clk := rfl
@[simp] theorem beginRead_replies (f : FsmState) (n : U16) (d : Dst) : (beginRead s f n d).replies = s.replies := rfl
@[simp] theorem beginRead_held (f : FsmState) (n : U16) (d : Dst) : (beginRead s f n d).held = s.held := rfl
@[simp] theorem beginRead_agenda (f : FsmState) (n : U16) (d : Dst) : (beginRead s f n d).agenda = s.agenda := rfl
@[simp] theorem beginRead_resets (f : FsmState) (n : U16) (d : Dst) : (beginRead s f n d).resets = s.resets := rfl

/-! ### `returnStatus` -/

@[simp] theorem returnStatus_params : (returnStatus s).params = s.params := rfl
@[simp] theorem returnStatus_timeout : (returnStatus s).timeout = s.timeout := rfl
@[simp] theorem returnStatus_fsm : (returnStatus s).fsm = s.fsm := rfl
@[simp] theorem returnStatus_kind : (returnStatus s).kind = s.kind := rfl
@[simp] theorem returnStatus_reason : (returnStatus s).reason = s.reason := rfl
@[simp] theorem returnStatus_respLen : (returnStatus s).respLen = s.respLen := rfl
@[simp] theorem returnStatus_resp : (returnStatus s).resp = s.resp := rfl
@[simp] theorem returnStatus_cmd : (returnStatus s).cmd = s.cmd := rfl
@[simp] theorem returnStatus_maxLen : (returnStatus s).maxLen = s.maxLen := rfl
@[simp] theorem returnStatus_hb : (returnStatus s).hb = s.hb := rfl
@[simp] theorem returnStatus_tb : (returnStatus s).tb = s.tb := rfl
@[simp] theorem returnStatus_need : (returnStatus s).need = s.need := rfl
@[simp] theorem returnStatus_cnt : (returnStatus s).cnt = s.cnt := rfl
@[simp] theorem returnStatus_dst : (returnStatus s).dst = s.dst := rfl
@[simp] theorem returnStatus_t0 : (returnStatus s).t0 = s.t0 := rfl
@[simp] theorem returnStatus_ts : (returnStatus s).ts = s.ts := rfl
@[simp] theorem returnStatus_form : (returnStatus s).form = s.form := rfl
@[simp] theorem returnStatus_declLen : (returnStatus s).declLen = s.declLen := rfl
@[simp] theorem returnStatus_pendReason : (returnStatus s).pendReason = s.pendReason := rfl
@[simp] theorem returnStatus_tx : (returnStatus s).tx = s.tx := rfl
@[simp] theorem returnStatus_rx : (returnStatus s).rx = s.rx := rfl
@[simp] theorem returnStatus_clk : (returnStatus s).clk = s.clk := rfl
@[simp] theorem returnStatus_replies : (returnStatus s).replies = s.replies ++ [⟨.exchange, .u32 (statusWord s)⟩] := rfl
@[simp] theorem returnStatus_held : (returnStatus s).held = s.held := rfl
@[simp] theorem returnStatus_agenda : (returnStatus s).agenda = s.agenda := rfl
@[simp] theorem returnStatus_resets : (returnStatus s).resets = s.resets := rfl

/-! ### `fail` -/

@[simp] theorem fail_params (k : Kind) (r : Reason) : (fail s k r).params = s.params := rfl
@[simp] theorem fail_timeout (k : Kind) (r : Reason) : (fail s k r).timeout = s.timeout := rfl
@[simp] theorem fail_fsm (k : Kind) (r : Reason) : (fail s k r).fsm = .failed := rfl
@[simp] theorem fail_kind (k : Kind) (r : Reason) : (fail s k r).kind = k := rfl
@[simp] theorem fail_reason (k : Kind) (r : Reason) : (fail s k r).reason = r := rfl
@[simp] theorem fail_respLen (k : Kind) (r : Reason) : (fail s k r).respLen = s.respLen := rfl
@[simp] theorem fail_resp (k : Kind) (r : Reason) : (fail s k r).resp = s.resp := rfl
@[simp] theorem fail_cmd (k : Kind) (r : Reason) : (fail s k r).cmd = s.cmd := rfl
@[simp] theorem fail_maxLen (k : Kind) (r : Reason) : (fail s k r).maxLen = s.maxLen := rfl
@[simp] theorem fail_hb (k : Kind) (r : Reason) : (fail s k r).hb = s.hb := rfl
@[simp] theorem fail_tb (k : Kind) (r : Reason) : (fail s k r).tb = s.tb := rfl
@[simp] theorem fail_need (k : Kind) (r : Reason) : (fail s k r).need = s.need := rfl
@[simp] theorem fail_cnt (k : Kind) (r : Reason) : (fail s k r).cnt = s.cnt := rfl
@[simp] theorem fail_dst (k : Kind) (r : Reason) : (fail s k r).dst = s.dst := rfl
@[simp] theorem fail_t0 (k : Kind) (r : Reason) : (fail s k r).t0 = s.t0 := rfl
@[simp] theorem fail_ts (k : Kind) (r : Reason) : (fail s k r).ts = s.ts := rfl
@[simp] theorem fail_form (k : Kind) (r : Reason) : (fail s k r).form = s.form := rfl
@[simp] theorem fail_declLen (k : Kind) (r : Reason) : (fail s k r).declLen = s.declLen := rfl
@[simp] theorem fail_pendReason (k : Kind) (r : Reason) : (fail s k r).pendReason = s.pendReason := rfl
@[simp] theorem fail_tx (k : Kind) (r : Reason) : (fail s k r).tx = s.tx := rfl
@[simp] theorem fail_rx (k : Kind) (r : Reason) : (fail s k r).rx = s.rx := rfl
@[simp] theorem fail_clk (k : Kind) (r : Reason) : (fail s k r).clk = s.clk := rfl
@[simp] theorem fail_replies (k : Kind) (r : Reason) : (fail s k r).replies = s.replies ++ [⟨.exchange, .u32 (statusWord { s with kind := k, reason := r, fsm := .failed })⟩] := rfl
@[simp] theorem fail_held (k : Kind) (r : Reason) : (fail s k r).held = s.held := rfl
@[simp] theorem fail_agenda (k : Kind) (r : Reason) : (fail s k r).agenda = s.agenda := rfl
@[simp] theorem fail_resets (k : Kind) (r : Reason) : (fail s k r).resets = s.resets := rfl

/-! ### `cancelEntry` -/

@[simp] theorem cancelEntry_params (r : Reason) : (cancelEntry s r).params = s.params := rfl
@[simp] theorem cancelEntry_timeout (r : Reason) : (cancelEntry s r).timeout = s.timeout := rfl
@[simp] theorem cancelEntry_fsm (r : Reason) : (cancelEntry s r).fsm = .cancelling := rfl
@[simp] theorem cancelEntry_kind (r : Reason) : (cancelEntry s r).kind = s.kind := rfl
@[simp] theorem cancelEntry_reason (r : Reason) : (cancelEntry s r).reason = s.reason := rfl
@[simp] theorem cancelEntry_respLen (r : Reason) : (cancelEntry s r).respLen = s.respLen := rfl
@[simp] theorem cancelEntry_resp (r : Reason) : (cancelEntry s r).resp = s.resp := rfl
@[simp] theorem cancelEntry_cmd (r : Reason) : (cancelEntry s r).cmd = s.cmd := rfl
@[simp] theorem cancelEntry_maxLen (r : Reason) : (cancelEntry s r).maxLen = s.maxLen := rfl
@[simp] theorem cancelEntry_hb (r : Reason) : (cancelEntry s r).hb = s.hb := rfl
@[simp] theorem cancelEntry_tb (r : Reason) : (cancelEntry s r).tb = s.tb := rfl
@[simp] theorem cancelEntry_need (r : Reason) : (cancelEntry s r).need = s.need := rfl
@[simp] theorem cancelEntry_cnt (r : Reason) : (cancelEntry s r).cnt = s.cnt := rfl
@[simp] theorem cancelEntry_dst (r : Reason) : (cancelEntry s r).dst = s.dst := rfl
@[simp] theorem cancelEntry_t0 (r : Reason) : (cancelEntry s r).t0 = s.t0 := rfl
@[simp] theorem cancelEntry_ts (r : Reason) : (cancelEntry s r).ts = s.clk := rfl
@[simp] theorem cancelEntry_form (r : Reason) : (cancelEntry s r).form = s.form := rfl
@[simp] theorem cancelEntry_declLen (r : Reason) : (cancelEntry s r).declLen = s.declLen := rfl
@[simp] theorem cancelEntry_pendReason (r : Reason) : (cancelEntry s r).pendReason = r := rfl
@[simp] theorem cancelEntry_tx (r : Reason) : (cancelEntry s r).tx = s.tx ++ ackPattern := rfl
@[simp] theorem cancelEntry_rx (r : Reason) : (cancelEntry s r).rx = s.rx := rfl
@[simp] theorem cancelEntry_clk (r : Reason) : (cancelEntry s r).clk = s.clk := rfl
@[simp] theorem cancelEntry_replies (r : Reason) : (cancelEntry s r).replies = s.replies := rfl
@[simp] theorem cancelEntry_held (r : Reason) : (cancelEntry s r).held = s.held := rfl
@[simp] theorem cancelEntry_agenda (r : Reason) : (cancelEntry s r).agenda = s.agenda := rfl
@[simp] theorem cancelEntry_resets (r : Reason) : (cancelEntry s r).resets = s.resets := rfl

/-! ### `succeed` -/

@[simp] theorem succeed_params : (succeed s).params = s.params := rfl
@[simp] theorem succeed_timeout : (succeed s).timeout = s.timeout := rfl
@[simp] theorem succeed_fsm : (succeed s).fsm = .done := rfl
@[simp] theorem succeed_kind : (succeed s).kind = .ok := rfl
@[simp] theorem succeed_reason : (succeed s).reason = .none := rfl
@[simp] theorem succeed_respLen : (succeed s).respLen = s.declLen := rfl
@[simp] theorem succeed_resp : (succeed s).resp = s.resp := rfl
@[simp] theorem succeed_cmd : (succeed s).cmd = s.cmd := rfl
@[simp] theorem succeed_maxLen : (succeed s).maxLen = s.maxLen := rfl
@[simp] theorem succeed_hb : (succeed s).hb = s.hb := rfl
@[simp] theorem succeed_tb : (succeed s).tb = s.tb := rfl
@[simp] theorem succeed_need : (succeed s).need = s.need := rfl
@[simp] theorem succeed_cnt : (succeed s).cnt = s.cnt := rfl
@[simp] theorem succeed_dst : (succeed s).dst = s.dst := rfl
@[simp] theorem succeed_t0 : (succeed s).t0 = s.t0 := rfl
@[simp] theorem succeed_ts : (succeed s).ts = s.ts := rfl
@[simp] theorem succeed_form : (succeed s).form = s.form := rfl
@[simp] theorem succeed_declLen : (succeed s).declLen = s.declLen := rfl
@[simp] theorem succeed_pendReason : (succeed s).pendReason = s.pendReason := rfl
@[simp] theorem succeed_tx : (succeed s).tx = s.tx := rfl
@[simp] theorem succeed_rx : (succeed s).rx = s.rx := rfl
@[simp] theorem succeed_clk : (succeed s).clk = s.clk := rfl
@[simp] theorem succeed_replies : (succeed s).replies = s.replies ++ [⟨.exchange, .u32 (statusWord { s with respLen := s.declLen, kind := .ok, reason := .none, fsm := .done })⟩] := rfl
@[simp] theorem succeed_held : (succeed s).held = s.held := rfl
@[simp] theorem succeed_agenda : (succeed s).agenda = s.agenda := rfl
@[simp] theorem succeed_resets : (succeed s).resets = s.resets := rfl

/-! ### `liftHeld` -/

@[simp] theorem liftHeld_params : (liftHeld s).params = s.params := by unfold liftHeld; split <;> rfl
@[simp] theorem liftHeld_timeout : (liftHeld s).timeout = s.timeout := by unfold liftHeld; split <;> rfl
@[simp] theorem liftHeld_fsm : (liftHeld s).fsm = s.fsm := by unfold liftHeld; split <;> rfl
@[simp] theorem liftHeld_kind : (liftHeld s).kind = s.kind := by unfold liftHeld; split <;> rfl
@[simp] theorem liftHeld_reason : (liftHeld s).reason = s.reason := by unfold liftHeld; split <;> rfl
@[simp] theorem liftHeld_respLen : (liftHeld s).respLen = s.respLen := by unfold liftHeld; split <;> rfl
@[simp] theorem liftHeld_resp : (liftHeld s).resp = s.resp := by unfold liftHeld; split <;> rfl
@[simp] theorem liftHeld_cmd : (liftHeld s).cmd = s.cmd := by unfold liftHeld; split <;> rfl
@[simp] theorem liftHeld_maxLen : (liftHeld s).maxLen = s.maxLen := by unfold liftHeld; split <;> rfl
@[simp] theorem liftHeld_hb : (liftHeld s).hb = s.hb := by unfold liftHeld; split <;> rfl
@[simp] theorem liftHeld_tb : (liftHeld s).tb = s.tb := by unfold liftHeld; split <;> rfl
@[simp] theorem liftHeld_need : (liftHeld s).need = s.need := by unfold liftHeld; split <;> rfl
@[simp] theorem liftHeld_cnt : (liftHeld s).cnt = s.cnt := by unfold liftHeld; split <;> rfl
@[simp] theorem liftHeld_dst : (liftHeld s).dst = s.dst := by unfold liftHeld; split <;> rfl
@[simp] theorem liftHeld_t0 : (liftHeld s).t0 = s.t0 := by unfold liftHeld; split <;> rfl
@[simp] theorem liftHeld_ts : (liftHeld s).ts = s.ts := by unfold liftHeld; split <;> rfl
@[simp] theorem liftHeld_form : (liftHeld s).form = s.form := by unfold liftHeld; split <;> rfl
@[simp] theorem liftHeld_declLen : (liftHeld s).declLen = s.declLen := by unfold liftHeld; split <;> rfl
@[simp] theorem liftHeld_pendReason : (liftHeld s).pendReason = s.pendReason := by unfold liftHeld; split <;> rfl
@[simp] theorem liftHeld_tx : (liftHeld s).tx = s.tx := by unfold liftHeld; split <;> rfl
@[simp] theorem liftHeld_rx : (liftHeld s).rx = s.rx := by unfold liftHeld; split <;> rfl
@[simp] theorem liftHeld_clk : (liftHeld s).clk = s.clk := by unfold liftHeld; split <;> rfl
@[simp] theorem liftHeld_replies : (liftHeld s).replies = s.replies := by unfold liftHeld; split <;> rfl
@[simp] theorem liftHeld_resets : (liftHeld s).resets = s.resets := by unfold liftHeld; split <;> rfl
theorem liftHeld_of_busy (h : s.fsm.busy = true) : liftHeld s = s := by simp [liftHeld, h]

theorem liftHeld_of_ready (h : s.fsm.busy = false) :
    liftHeld s = { s with agenda := s.held.map Turn.packet ++ s.agenda, held := [] } := by simp [liftHeld, h]

/-! ### `resetInput` -/

@[simp] theorem resetInput_params : (resetInput s).params = s.params := rfl
@[simp] theorem resetInput_timeout : (resetInput s).timeout = s.params.timeoutReset := rfl
@[simp] theorem resetInput_fsm : (resetInput s).fsm = .idle := rfl
@[simp] theorem resetInput_kind : (resetInput s).kind = .none := rfl
@[simp] theorem resetInput_reason : (resetInput s).reason = .none := rfl
@[simp] theorem resetInput_respLen : (resetInput s).respLen = Config.respLenReset (s.resets + 1) := rfl
@[simp] theorem resetInput_resp : (resetInput s).resp = [] := rfl
@[simp] theorem resetInput_cmd : (resetInput s).cmd = [] := rfl
@[simp] theorem resetInput_maxLen : (resetInput s).maxLen = 0 := rfl
@[simp] theorem resetInput_hb : (resetInput s).hb = Vector.replicate 8 0 := rfl
@[simp] theorem resetInput_tb : (resetInput s).tb = Vector.replicate 2 0 := rfl
@[simp] theorem resetInput_need : (resetInput s).need = 0 := rfl
@[simp] theorem resetInput_cnt : (resetInput s).cnt = 0 := rfl
@[simp] theorem resetInput_dst : (resetInput s).dst = .hb0 := rfl
@[simp] theorem resetInput_t0 : (resetInput s).t0 = 0 := rfl
@[simp] theorem resetInput_ts : (resetInput s).ts = 0 := rfl
@[simp] theorem resetInput_form : (resetInput s).form = .normal := rfl
@[simp] theorem resetInput_declLen : (resetInput s).declLen = 0 := rfl
@[simp] theorem resetInput_pendReason : (resetInput s).pendReason = .none := rfl
@[simp] theorem resetInput_tx : (resetInput s).tx = s.tx := rfl
@[simp] theorem resetInput_rx : (resetInput s).rx = s.rx := rfl
@[simp] theorem resetInput_clk : (resetInput s).clk = s.clk := rfl
@[simp] theorem resetInput_replies : (resetInput s).replies = s.replies := rfl
@[simp] theorem resetInput_held : (resetInput s).held = [] := rfl
@[simp] theorem resetInput_agenda : (resetInput s).agenda = s.held.map Turn.packet ++ s.agenda := rfl
@[simp] theorem resetInput_resets : (resetInput s).resets = s.resets + 1 := rfl

end Sys2Proof.Machine
end

