-- ==== Sys2Proof/Laws/Engine.lean ====
section
/-! SUPPORT. The laws of the engine: what storing a run of bytes does to each buffer, and the one equation for a poll
(spec/42_link_engine.md R173) that every later proof about an engine step cites instead of unfolding it. -/

namespace Sys2Proof.Machine

/-! ## Runs of bytes -/

/-- Writing the bytes `b` into a fixed buffer from offset `j` on. -/
def setBytes {n : Nat} (v : Vector Byte n) (j : Nat) : List Byte → Vector Byte n
  | [] => v
  | b :: rest => setBytes (v.setIfInBounds j b) (j + 1) rest

/-- Element `i` afterwards: the byte written there, or the old element. -/
theorem setBytes_getElem {n : Nat} (b : List Byte) (v : Vector Byte n) (j i : Nat) (hi : i < n) :
    (setBytes v j b)[i] = if j ≤ i then (b[i - j]?).getD v[i] else v[i] := by
  induction b generalizing v j with
  | nil => simp [setBytes]
  | cons x rest ih =>
    rw [setBytes, ih]
    by_cases h1 : j + 1 ≤ i
    · have h2 : j ≤ i := by omega
      have h3 : i - j = i - (j + 1) + 1 := by omega
      have h4 : j ≠ i := by omega
      simp [h1, h2, h3, h4]
    · by_cases h2 : j = i
      · subst h2; simp
      · have h3 : ¬ j ≤ i := by omega
        simp [h1, h3, h2]

/-- Writing the bytes `b` into the memory from index `j` on. -/
def writeBytes (m : Memory) (j : Nat) : List Byte → Memory
  | [] => m
  | b :: rest => writeBytes (Memory.write m j b) (j + 1) rest

/-- Index `i` afterwards: the byte written there, or what was there. -/
theorem read?_writeBytes (b : List Byte) (m : Memory) (j i : Nat) :
    Memory.read? (writeBytes m j b) i =
      if j ≤ i ∧ i < j + b.length then b[i - j]? else Memory.read? m i := by
  induction b generalizing m j with
  | nil => simp [writeBytes]
  | cons x rest ih =>
    rw [writeBytes, ih, Memory.read?_write]
    by_cases h1 : j + 1 ≤ i ∧ i < j + 1 + rest.length
    · have h2 : j ≤ i ∧ i < j + (rest.length + 1) := by omega
      have h3 : i - j = i - (j + 1) + 1 := by omega
      simp [h1, h2, h3]
    · by_cases h2 : i = j
      · subst h2; simp
      · have h3 : ¬ (j ≤ i ∧ i < j + (x :: rest).length) := by simp only [List.length_cons]; omega
        rw [if_neg h1, if_neg h3, if_neg h2]

/-- Writing inside `RESP` keeps the canonical form. -/
theorem wf_writeBytes (b : List Byte) {m : Memory} {j : Nat} (h : Memory.wf m = true)
    (hj : j + b.length ≤ respBufCap) : Memory.wf (writeBytes m j b) = true := by
  induction b generalizing m j with
  | nil => exact h
  | cons x rest ih =>
    simp only [List.length_cons] at hj
    exact ih (Memory.wf_write x h (by omega)) (by omega)

/-! ## Storing taken bytes -/

/-- How many bytes the buffer a destination names has from its offset on (R40, R41). -/
def Dst.room : Dst → Nat
  | .hb0 => 8
  | .hb5 => 3
  | .resp0 => respBufCap
  | .tb0 => 2

/-- `s` with the bytes `b` stored from offset `j` of the destination `d`. -/
def stored (s : State) (d : Dst) (j : Nat) (b : List Byte) : State :=
  match d with
  | .hb0 => { s with hb := setBytes s.hb j b }
  | .hb5 => { s with hb := setBytes s.hb (5 + j) b }
  | .resp0 => { s with resp := writeBytes s.resp j b }
  | .tb0 => { s with tb := setBytes s.tb j b }

/-- Bytes that fit are stored; nothing else changes and nothing faults. -/
theorem storeBytes_eq (b : List Byte) (s : State) (d : Dst) (j : Nat) (h : j + b.length ≤ d.room) :
    storeBytes s d j b = .next (stored s d j b) := by
  induction b generalizing s j with
  | nil => cases d <;> rfl
  | cons x rest ih =>
    simp only [List.length_cons] at h
    cases d with
    | hb0 =>
      simp only [Dst.room] at h
      have hj : j < 8 := by omega
      simp only [storeBytes, storeByte, hj, if_true]
      exact ih _ _ (by simp only [Dst.room]; omega)
    | hb5 =>
      simp only [Dst.room] at h
      have hj : 5 + j < 8 := by omega
      simp only [storeBytes, storeByte, hj, if_true]
      exact ih _ _ (by simp only [Dst.room]; omega)
    | resp0 =>
      simp only [Dst.room] at h
      have hj : j < respBufCap := by omega
      simp only [storeBytes, storeByte, hj, if_true]
      exact ih _ _ (by simp only [Dst.room]; omega)
    | tb0 =>
      simp only [Dst.room] at h
      have hj : j < 2 := by omega
      simp only [storeBytes, storeByte, hj, if_true]
      exact ih _ _ (by simp only [Dst.room]; omega)

/-! ## The poll -/

/-- The state a poll has after its bytes are taken and counted, before the checks (R173). -/
def afterBytes (s : State) : State :=
  { stored (rxTake s (takeCount s)) s.dst s.cnt.toNat (s.rx.take (takeCount s)) with
    cnt := s.cnt + BitVec.ofNat 16 (takeCount s) }

/-- A poll whose bytes fit does not fault: it goes on to the checks. -/
theorem poll_eq (s : State) (h : s.cnt.toNat + takeCount s ≤ s.dst.room) :
    poll s = .next (afterTake (afterBytes s)) := by
  have hlen : (s.rx.take (takeCount s)).length = takeCount s := by simp [takeCount]
  simp only [poll, afterBytes]
  rw [storeBytes_eq _ _ _ _ (by omega)]
  rfl

/-- In a reading state of the invariant the bytes of a poll fit. -/
theorem takeCount_fits {s : State} (hm : s.maxLen.toNat ≤ respBufCap) (hr : ReadAgrees s)
    (hf : s.fsm.timeoutReason?.isSome) : s.cnt.toNat + takeCount s ≤ s.dst.room := by
  unfold ReadAgrees at hr
  unfold takeCount
  split at hr
  · obtain ⟨hd, hn, hc⟩ := hr
    rw [BitVec.lt_def] at hc
    simp only [hd, hn, Dst.room] at hc ⊢
    simp at hc ⊢; omega
  · obtain ⟨hd, hn, hc⟩ := hr
    rw [BitVec.lt_def] at hc
    simp only [hd, hn, Dst.room] at hc ⊢
    simp at hc ⊢; omega
  · obtain ⟨hd, hn, hc, -⟩ := hr
    rw [BitVec.lt_def] at hc
    simp only [hd, hn, Dst.room] at hc ⊢
    simp at hc ⊢; omega
  · obtain ⟨hd, hn, hc, hl⟩ := hr
    rw [BitVec.lt_def] at hc
    rw [BitVec.le_def] at hl
    simp only [hd, hn, Dst.room] at hc ⊢
    omega
  · obtain ⟨hd, hn, hc, -⟩ := hr
    rw [BitVec.lt_def] at hc
    simp only [hd, hn, Dst.room] at hc ⊢
    simp at hc ⊢; omega
  · rename_i h1 h2 h3 h4 h5
    cases hs : s.fsm <;> simp_all [FsmState.timeoutReason?]

/-- An engine step in a reading state is a poll. -/
theorem engineStep_reading {s : State} (hf : s.fsm.timeoutReason?.isSome) : engineStep s = poll s := by
  unfold engineStep
  cases hs : s.fsm <;> simp_all [FsmState.timeoutReason?]

/-- The one equation for an engine step in a reading state of the invariant. -/
theorem engineStep_reading_eq {s : State} (hm : s.maxLen.toNat ≤ respBufCap) (hr : ReadAgrees s)
    (hf : s.fsm.timeoutReason?.isSome) : engineStep s = .next (afterTake (afterBytes s)) := by
  rw [engineStep_reading hf, poll_eq s (takeCount_fits hm hr hf)]

/-! ## What storing and counting leaves alone -/

section
variable (s : State)

@[simp] theorem afterBytes_fsm : (afterBytes s).fsm = s.fsm := by simp only [afterBytes, stored]; split <;> rfl
@[simp] theorem afterBytes_kind : (afterBytes s).kind = s.kind := by simp only [afterBytes, stored]; split <;> rfl
@[simp] theorem afterBytes_reason : (afterBytes s).reason = s.reason := by simp only [afterBytes, stored]; split <;> rfl
@[simp] theorem afterBytes_params : (afterBytes s).params = s.params := by simp only [afterBytes, stored]; split <;> rfl
@[simp] theorem afterBytes_timeout : (afterBytes s).timeout = s.timeout := by simp only [afterBytes, stored]; split <;> rfl
@[simp] theorem afterBytes_respLen : (afterBytes s).respLen = s.respLen := by simp only [afterBytes, stored]; split <;> rfl
@[simp] theorem afterBytes_cmd : (afterBytes s).cmd = s.cmd := by simp only [afterBytes, stored]; split <;> rfl
@[simp] theorem afterBytes_maxLen : (afterBytes s).maxLen = s.maxLen := by simp only [afterBytes, stored]; split <;> rfl
@[simp] theorem afterBytes_need : (afterBytes s).need = s.need := by simp only [afterBytes, stored]; split <;> rfl
@[simp] theorem afterBytes_cnt : (afterBytes s).cnt = s.cnt + BitVec.ofNat 16 (takeCount s) := rfl
@[simp] theorem afterBytes_dst : (afterBytes s).dst = s.dst := by simp only [afterBytes, stored]; split <;> rfl
@[simp] theorem afterBytes_t0 : (afterBytes s).t0 = s.t0 := by simp only [afterBytes, stored]; split <;> rfl
@[simp] theorem afterBytes_ts : (afterBytes s).ts = s.ts := by simp only [afterBytes, stored]; split <;> rfl
@[simp] theorem afterBytes_form : (afterBytes s).form = s.form := by simp only [afterBytes, stored]; split <;> rfl
@[simp] theorem afterBytes_declLen : (afterBytes s).declLen = s.declLen := by simp only [afterBytes, stored]; split <;> rfl
@[simp] theorem afterBytes_pendReason : (afterBytes s).pendReason = s.pendReason := by
  simp only [afterBytes, stored]; split <;> rfl
@[simp] theorem afterBytes_tx : (afterBytes s).tx = s.tx := by simp only [afterBytes, stored]; split <;> rfl
@[simp] theorem afterBytes_rx : (afterBytes s).rx = s.rx.drop (takeCount s) := by
  simp only [afterBytes, stored]; split <;> rfl
@[simp] theorem afterBytes_clk : (afterBytes s).clk = s.clk := by simp only [afterBytes, stored]; split <;> rfl
@[simp] theorem afterBytes_replies : (afterBytes s).replies = s.replies := by simp only [afterBytes, stored]; split <;> rfl
@[simp] theorem afterBytes_held : (afterBytes s).held = s.held := by simp only [afterBytes, stored]; split <;> rfl
@[simp] theorem afterBytes_agenda : (afterBytes s).agenda = s.agenda := by simp only [afterBytes, stored]; split <;> rfl
@[simp] theorem afterBytes_resets : (afterBytes s).resets = s.resets := by simp only [afterBytes, stored]; split <;> rfl

/-- Taking bytes does not move the window. -/
@[simp] theorem afterBytes_windowExpired : windowExpired (afterBytes s) = windowExpired s :=
  decide_eq_decide.2 (by simp [elapsed])

/-- Only a payload read touches `RESP`. -/
theorem afterBytes_resp : (afterBytes s).resp =
    if s.dst = .resp0 then writeBytes s.resp s.cnt.toNat (s.rx.take (takeCount s)) else s.resp := by
  simp only [afterBytes, stored]
  split <;> rename_i h <;> simp [h]

/-- Only a trailer read touches `TB`. -/
theorem afterBytes_tb : (afterBytes s).tb =
    if s.dst = .tb0 then setBytes s.tb s.cnt.toNat (s.rx.take (takeCount s)) else s.tb := by
  simp only [afterBytes, stored]
  split <;> rename_i h <;> simp [h]

/-- The header buffer after a poll. -/
theorem afterBytes_hb : (afterBytes s).hb =
    if s.dst = .hb0 then setBytes s.hb s.cnt.toNat (s.rx.take (takeCount s))
    else if s.dst = .hb5 then setBytes s.hb (5 + s.cnt.toNat) (s.rx.take (takeCount s)) else s.hb := by
  simp only [afterBytes, stored]
  split <;> rename_i h <;> simp [h]

end

/-- The count after a poll, as a number. -/
theorem afterBytes_cnt_toNat {s : State} (hc : s.cnt.toNat ≤ s.need.toNat) :
    (afterBytes s).cnt.toNat = s.cnt.toNat + takeCount s := by
  have h1 : takeCount s ≤ s.need.toNat - s.cnt.toNat := Nat.min_le_right _ _
  have h2 := s.need.isLt
  simp only [afterBytes_cnt, BitVec.toNat_add, BitVec.toNat_ofNat]
  omega

/-- A poll completes its block exactly when enough bytes are buffered. -/
theorem afterBytes_complete_iff {s : State} (hc : s.cnt.toNat ≤ s.need.toNat) :
    (afterBytes s).cnt = (afterBytes s).need ↔ s.need.toNat - s.cnt.toNat ≤ s.rx.length := by
  rw [← BitVec.toNat_inj, afterBytes_cnt_toNat hc, afterBytes_need]
  unfold takeCount
  omega

/-- A step that times out has taken every byte of `RX`. -/
theorem stepTimesOut_takes_all {s : State} (h : stepTimesOut s = true) : s.rx.drop (takeCount s) = [] := by
  simp only [stepTimesOut, Bool.and_eq_true] at h
  have hs := of_decide_eq_true h.1.2
  unfold takeCount at hs ⊢
  exact List.drop_eq_nil_of_le (by omega)

/-- Everything a reset inside a write can be: the reset input after part of the command frame, after part of the cancel's 6
bytes, or, where the engine writes nothing, the reset input alone. -/
theorem resetInWrite_cases (k : Nat) (s : State) :
    (s.fsm = .sending ∧ resetInWrite k s = resetInput { s with rx := [], tx := s.tx ++ (encodeFrame s.cmd).take k }) ∨
    (stepTimesOut s = true ∧ resetInWrite k s = resetInput { s with rx := [], tx := s.tx ++ ackPattern.take k }) ∨
    (s.fsm ≠ .sending ∧ stepTimesOut s = false ∧ resetInWrite k s = resetInput s) := by
  unfold resetInWrite partOfStep
  split
  · exact .inl ⟨‹_›, rfl⟩
  · split
    · exact .inr (.inl ⟨‹_›, by simp only [txWrite, rxTake, stepTimesOut_takes_all ‹_›]⟩)
    · exact .inr (.inr ⟨‹_›, Bool.eq_false_iff.2 ‹_›, rfl⟩)

/-- A ready engine and one without a block read to time out never enter a cancel. -/
theorem clockCheck_eq (s : State) : clockCheck s = s ∨
    ∃ r, s.fsm.timeoutReason? = some r ∧ windowExpired s = true ∧ clockCheck s = cancelEntry s r := by
  unfold clockCheck
  split
  · split
    · exact Or.inr ⟨_, ‹_›, ‹_›, rfl⟩
    · exact Or.inl rfl
  · exact Or.inl rfl

end Sys2Proof.Machine
end

