-- ==== Sys2Proof/Laws/Block.lean ====
section
/-! SUPPORT. What a poll does to the block being read: the bytes received so far grow by the bytes taken, in order
(spec/42_link_engine.md R173, spec/20_memory.md R65), and when the block is complete they are `block s`. -/

namespace Sys2Proof.Machine

/-- The bytes of a buffer up to the end of a run just written. -/
theorem setBytes_take {n : Nat} (v : Vector Byte n) (j : Nat) (b : List Byte) (h : j + b.length ≤ n) :
    (setBytes v j b).toList.take (j + b.length) = v.toList.take j ++ b := by
  apply List.ext_getElem
  · simp; omega
  · intro i h1 h2
    simp only [List.length_append, List.length_take, Vector.length_toList] at h1 h2
    have hn : i < n := by omega
    have e : ((setBytes v j b).toList)[i]'(by simpa using hn) = (setBytes v j b)[i] := by simp
    rw [List.getElem_take, e, setBytes_getElem]
    by_cases hj : j ≤ i
    · have hb : i - j < b.length := by omega
      have hl : (v.toList.take j).length ≤ i := by simp; omega
      have hm : i - min j n = i - j := by omega
      simp [hj, hb, List.getElem_append_right hl, hm]
    · have hl : i < (v.toList.take j).length := by simp; omega
      simp [hj, List.getElem_append_left hl]

/-- The part of a buffer before a run just written is as before. -/
theorem setBytes_take_before {n : Nat} (v : Vector Byte n) (j k : Nat) (b : List Byte) (h : k ≤ j) :
    (setBytes v j b).toList.take k = v.toList.take k := by
  apply List.ext_getElem
  · simp
  · intro i h1 h2
    simp only [List.length_take, Vector.length_toList] at h1
    have hj : ¬ j ≤ i := by omega
    have hn : i < n := by omega
    simp [setBytes_getElem, hj]

/-- `RESP[0..n)` has `n` bytes. -/
@[simp] theorem respBytes_length (s : State) (n : Nat) : (respBytes s n).length = n := by simp [respBytes]

theorem respBytes_getElem (s : State) (n i : Nat) (h : i < (respBytes s n).length) :
    (respBytes s n)[i] = respByte s i := by simp [respBytes]

/-- `RESP[0..n)` depends on what is written and on the count of resets alone. -/
theorem respBytes_congr {s t : State} (hr : s.resp = t.resp) (hn : s.resets = t.resets) (n : Nat) :
    respBytes s n = respBytes t n := by
  unfold respBytes
  congr 1
  funext i
  simp [respByte, hr, hn]

/-- `RESP[0..n)` after a run written at `j`, up to the end of the run. -/
theorem respBytes_writeBytes (s : State) (j : Nat) (b : List Byte) :
    respBytes { s with resp := writeBytes s.resp j b } (j + b.length) = respBytes s j ++ b := by
  apply List.ext_getElem
  · simp
  · intro i h1 h2
    simp only [respBytes_length] at h1
    rw [respBytes_getElem]
    simp only [respByte, read?_writeBytes]
    by_cases hj : j ≤ i
    · have hb : i - j < b.length := by omega
      have hl : (respBytes s j).length ≤ i := by simpa using hj
      simp [hj, h1, hb, List.getElem_append_right hl]
    · have hl : i < (respBytes s j).length := by simp; omega
      simp [hj, List.getElem_append_left hl, respBytes_getElem, respByte]

/-- How many bytes a block read has received, in a reading state of the invariant. -/
theorem received_length {s : State} (hr : ReadAgrees s) (hf : s.fsm.timeoutReason?.isSome) :
    (received s).length = s.cnt.toNat := by
  unfold ReadAgrees at hr
  unfold received
  split at hr
  · obtain ⟨-, hn, hc⟩ := hr
    rw [BitVec.lt_def, hn] at hc
    simp at hc ⊢; omega
  · obtain ⟨-, hn, hc⟩ := hr
    rw [BitVec.lt_def, hn] at hc
    simp at hc ⊢; omega
  · obtain ⟨-, hn, hc, -⟩ := hr
    rw [BitVec.lt_def, hn] at hc
    simp at hc ⊢; omega
  · simp
  · obtain ⟨-, hn, hc, -⟩ := hr
    rw [BitVec.lt_def, hn] at hc
    simp at hc ⊢; omega
  · rename_i h1 h2 h3 h4 h5
    cases hs : s.fsm <;> simp_all [FsmState.timeoutReason?]

/-- In a reading state of the invariant the block is short, and its count in range. -/
theorem cnt_lt_need {s : State} (hr : ReadAgrees s) (hf : s.fsm.timeoutReason?.isSome) :
    s.cnt.toNat < s.need.toNat := by
  unfold ReadAgrees at hr
  split at hr
  · exact BitVec.lt_def.1 hr.2.2
  · exact BitVec.lt_def.1 hr.2.2
  · exact BitVec.lt_def.1 hr.2.2.1
  · exact BitVec.lt_def.1 hr.2.2.1
  · exact BitVec.lt_def.1 hr.2.2.1
  · cases hs : s.fsm <;> simp_all [FsmState.timeoutReason?]

/-- A poll appends the bytes it takes to the bytes received. -/
theorem received_afterBytes {s : State} (hm : s.maxLen.toNat ≤ respBufCap) (hr : ReadAgrees s)
    (hf : s.fsm.timeoutReason?.isSome) :
    received (afterBytes s) = received s ++ s.rx.take (takeCount s) := by
  have hfit := takeCount_fits hm hr hf
  have hcn := cnt_lt_need hr hf
  have hcnt := afterBytes_cnt_toNat (Nat.le_of_lt hcn)
  have hlen : (s.rx.take (takeCount s)).length = takeCount s := by simp [takeCount]
  unfold ReadAgrees at hr
  unfold received
  rw [afterBytes_fsm, hcnt]
  split at hr
  · simp only [afterBytes_hb, hr.1, if_true]
    rw [hr.1] at hfit
    have := setBytes_take s.hb s.cnt.toNat (s.rx.take (takeCount s)) (by rw [hlen]; exact hfit)
    rwa [hlen] at this
  · simp only [afterBytes_hb, hr.1, if_true]
    rw [hr.1] at hfit
    have := setBytes_take s.hb s.cnt.toNat (s.rx.take (takeCount s)) (by rw [hlen]; exact hfit)
    rwa [hlen] at this
  · have hd : ¬ (Dst.hb5 = Dst.hb0) := by decide
    simp only [afterBytes_hb, hr.1, if_true, if_neg hd]
    rw [hr.1] at hfit
    simp only [Dst.room] at hfit
    have := setBytes_take s.hb (5 + s.cnt.toNat) (s.rx.take (takeCount s)) (by rw [hlen]; omega)
    rw [hlen] at this
    have h5 := congrArg (List.drop 5) this
    rw [List.drop_take, List.drop_append] at h5
    simp only [List.drop_take, List.length_take, Vector.length_toList] at h5
    have e1 : 5 + s.cnt.toNat + takeCount s - 5 = s.cnt.toNat + takeCount s := by omega
    have e2 : 5 + s.cnt.toNat - 5 = s.cnt.toNat := by omega
    have e3 : 5 - min (5 + s.cnt.toNat) 8 = 0 := by omega
    rwa [e1, e2, e3, List.drop_zero] at h5
  · have := respBytes_writeBytes s s.cnt.toNat (s.rx.take (takeCount s))
    rw [hlen] at this
    refine Eq.trans (respBytes_congr ?_ ?_ _) this
    · rw [afterBytes_resp, if_pos hr.1]
    · exact afterBytes_resets s
  · simp only [afterBytes_tb, hr.1, if_true]
    rw [hr.1] at hfit
    have := setBytes_take s.tb s.cnt.toNat (s.rx.take (takeCount s)) (by rw [hlen]; exact hfit)
    rwa [hlen] at this
  · cases hs : s.fsm <;> simp_all [FsmState.timeoutReason?]

/-- When the block is buffered whole, a poll takes exactly what it still needs. -/
theorem takeCount_of_buffered {s : State} (h : blockBuffered s) : takeCount s = s.need.toNat - s.cnt.toNat := by
  unfold blockBuffered at h
  unfold takeCount
  omega

/-- When it is not, a poll takes all that is buffered. -/
theorem takeCount_of_short {s : State} (h : ¬ blockBuffered s) : takeCount s = s.rx.length := by
  unfold blockBuffered at h
  unfold takeCount
  omega

/-- The received bytes after a poll that completes its block. -/
theorem received_of_buffered {s : State} (hm : s.maxLen.toNat ≤ respBufCap) (hr : ReadAgrees s)
    (hf : s.fsm.timeoutReason?.isSome) (h : blockBuffered s) : received (afterBytes s) = block s := by
  have hl := received_length hr hf
  have hc := cnt_lt_need hr hf
  rw [received_afterBytes hm hr hf, takeCount_of_buffered h, block, List.take_append, hl,
    List.take_of_length_le (show (received s).length ≤ s.need.toNat by omega)]

/-- The length of a block buffered whole. -/
theorem block_length {s : State} (hr : ReadAgrees s) (hf : s.fsm.timeoutReason?.isSome) (h : blockBuffered s) :
    (block s).length = s.need.toNat := by
  have hl := received_length hr hf
  have hc := cnt_lt_need hr hf
  unfold blockBuffered at h
  simp only [block, List.length_take, List.length_append, hl]
  omega

/-- A poll whose block is buffered whole goes on to its check rule (R175). -/
theorem engineStep_of_buffered {s : State} (hm : s.maxLen.toNat ≤ respBufCap) (hr : ReadAgrees s)
    (hf : s.fsm.timeoutReason?.isSome) (h : blockBuffered s) : engineStep s = .next (complete (afterBytes s)) := by
  rw [engineStep_reading_eq hm hr hf, afterTake,
    if_pos ((afterBytes_complete_iff (Nat.le_of_lt (cnt_lt_need hr hf))).2 h)]

/-- A poll whose block is short goes on to the clock check (R174). -/
theorem engineStep_of_short {s : State} (hm : s.maxLen.toNat ≤ respBufCap) (hr : ReadAgrees s)
    (hf : s.fsm.timeoutReason?.isSome) (h : ¬ blockBuffered s) : engineStep s = .next (clockCheck (afterBytes s)) := by
  rw [engineStep_reading_eq hm hr hf, afterTake,
    if_neg (fun e => h ((afterBytes_complete_iff (Nat.le_of_lt (cnt_lt_need hr hf))).1 e))]

/-- After a completing poll the count has reached the length of the block. -/
theorem afterBytes_cnt_of_buffered {s : State} (hr : ReadAgrees s) (hf : s.fsm.timeoutReason?.isSome)
    (h : blockBuffered s) : (afterBytes s).cnt = s.need := by
  rw [← afterBytes_need s]
  exact (afterBytes_complete_iff (Nat.le_of_lt (cnt_lt_need hr hf))).2 h

/-! ## A poll's taking as one record update -/

/-- A poll of a header or of an extended length changes `HB`, `RX` and `CNT`. -/
theorem afterBytes_eq_header {s : State} (hd : s.dst = .hb0 ∨ s.dst = .hb5) : afterBytes s =
    { s with hb := (afterBytes s).hb, rx := s.rx.drop (takeCount s), cnt := (afterBytes s).cnt } := by
  rcases hd with hd | hd <;> simp [afterBytes, stored, hd, rxTake]

/-- A poll of a trailer changes `TB`, `RX` and `CNT`. -/
theorem afterBytes_eq_trailer {s : State} (hd : s.dst = .tb0) : afterBytes s =
    { s with tb := (afterBytes s).tb, rx := s.rx.drop (takeCount s), cnt := (afterBytes s).cnt } := by
  simp [afterBytes, stored, hd, rxTake]

/-- A poll of a payload changes `RESP`, `RX` and `CNT`. -/
theorem afterBytes_eq_payload {s : State} (hd : s.dst = .resp0) : afterBytes s =
    { s with resp := (afterBytes s).resp, rx := s.rx.drop (takeCount s), cnt := (afterBytes s).cnt } := by
  simp [afterBytes, stored, hd, rxTake]

/-- Any poll changes the three buffers, `RX` and `CNT` at most. -/
theorem afterBytes_eq (s : State) : afterBytes s =
    { s with hb := (afterBytes s).hb, tb := (afterBytes s).tb, resp := (afterBytes s).resp,
             rx := s.rx.drop (takeCount s), cnt := (afterBytes s).cnt } := by
  cases hd : s.dst <;> simp [afterBytes, stored, hd, rxTake]

/-- In a reading state of the invariant `RESP` is the destination exactly while the payload is read. -/
theorem dst_resp0_iff {s : State} (hr : ReadAgrees s) (hf : s.fsm.timeoutReason?.isSome) :
    s.dst = .resp0 ↔ s.fsm = .awaitingPayload := by
  unfold ReadAgrees at hr
  split at hr
  all_goals (cases hh : s.fsm <;> simp_all [FsmState.timeoutReason?])

/-! ## Every byte of the buffers after a poll -/

/-- A run written into a fixed buffer, read back byte by byte. -/
theorem setBytes_overlay {n : Nat} (v : Vector Byte n) (j : Nat) (b : List Byte) (h : j + b.length ≤ n) (i : Nat) :
    (setBytes v j b).toList[i]? = overlay (some j) b i v.toList[i]? := by
  simp only [overlay]
  by_cases hi : i < n
  · have e : (setBytes v j b).toList[i]? = some (setBytes v j b)[i] := by simp [hi]
    have e' : v.toList[i]? = some v[i] := by simp [hi]
    rw [e, e', setBytes_getElem]
    by_cases hj : j ≤ i
    · by_cases hb : i < j + b.length
      · have hb' : i - j < b.length := by omega
        simp [hj, hb, hb']
      · have hb' : b.length ≤ i - j := by omega
        simp [hj, hb, hb']
    · simp [hj]
  · have hb : ¬ (j ≤ i ∧ i < j + b.length) := by omega
    simp [hi, hb]

/-- A poll whose bytes fit stores them where the block read stands and changes no other byte. -/
theorem afterBytes_stored {s : State} (hfit : s.cnt.toNat + takeCount s ≤ s.dst.room) :
    BytesStored s (afterBytes s) (s.rx.take (takeCount s)) := by
  have hlen : (s.rx.take (takeCount s)).length = takeCount s := by simp [takeCount]
  constructor
  · intro i
    rw [afterBytes_hb]
    unfold hbStart
    cases hd : s.dst <;> rw [hd] at hfit <;> simp only [Dst.room] at hfit
    · exact setBytes_overlay s.hb _ _ (by omega) i
    · exact setBytes_overlay s.hb _ _ (by omega) i
    · rfl
    · rfl
  · intro i
    rw [afterBytes_tb]
    unfold tbStart
    cases hd : s.dst <;> rw [hd] at hfit <;> simp only [Dst.room] at hfit
    · rfl
    · rfl
    · rfl
    · exact setBytes_overlay s.tb _ _ (by omega) i
  · intro i
    rw [afterBytes_resp]
    unfold respStart
    cases hd : s.dst
    · rfl
    · rfl
    · exact read?_writeBytes _ _ _ i
    · rfl

/-- The part of a buffer behind a run just written is as before. -/
theorem setBytes_drop {n : Nat} (v : Vector Byte n) (j k : Nat) (b : List Byte) (h : j + b.length ≤ k) :
    (setBytes v j b).toList.drop k = v.toList.drop k := by
  apply List.ext_getElem
  · simp
  · intro i h1 h2
    simp only [List.length_drop, Vector.length_toList] at h1
    have hn : k + i < n := by omega
    have hb : b.length ≤ k + i - j := by omega
    simp [setBytes_getElem, hb]

end Sys2Proof.Machine
end

