-- ==== Sys2Proof/Laws/Checks.lean ====
section
/-! SUPPORT. What the checks of a poll can do (spec/42_link_engine.md R176 to R190): the registers no check writes, the
transitions a complete block makes, and what an engine step can do at all. -/

namespace Sys2Proof.Machine

variable (s : State)

@[simp] theorem capacityCheck_params : (capacityCheck s).params = s.params := by
  unfold capacityCheck; split
  · rfl
  · simp only; split <;> rfl

@[simp] theorem complete_params : (complete s).params = s.params := by
  unfold complete; split <;> try rfl
  · unfold ackCheck; split <;> rfl
  · unfold preambleCheck formSelection normalLengthCheck; split
    · split
      · rfl
      · simp only; split
        · rw [capacityCheck_params]
        · rfl
    · rfl
  · unfold extendedLengthCheck; split
    · rw [capacityCheck_params]
    · rfl
  · unfold trailerCheck; split
    · rfl
    · split <;> rfl

@[simp] theorem capacityCheck_timeout : (capacityCheck s).timeout = s.timeout := by
  unfold capacityCheck; split
  · rfl
  · simp only; split <;> rfl

@[simp] theorem complete_timeout : (complete s).timeout = s.timeout := by
  unfold complete; split <;> try rfl
  · unfold ackCheck; split <;> rfl
  · unfold preambleCheck formSelection normalLengthCheck; split
    · split
      · rfl
      · simp only; split
        · rw [capacityCheck_timeout]
        · rfl
    · rfl
  · unfold extendedLengthCheck; split
    · rw [capacityCheck_timeout]
    · rfl
  · unfold trailerCheck; split
    · rfl
    · split <;> rfl

@[simp] theorem capacityCheck_resp : (capacityCheck s).resp = s.resp := by
  unfold capacityCheck; split
  · rfl
  · simp only; split <;> rfl

@[simp] theorem complete_resp : (complete s).resp = s.resp := by
  unfold complete; split <;> try rfl
  · unfold ackCheck; split <;> rfl
  · unfold preambleCheck formSelection normalLengthCheck; split
    · split
      · rfl
      · simp only; split
        · rw [capacityCheck_resp]
        · rfl
    · rfl
  · unfold extendedLengthCheck; split
    · rw [capacityCheck_resp]
    · rfl
  · unfold trailerCheck; split
    · rfl
    · split <;> rfl

@[simp] theorem capacityCheck_cmd : (capacityCheck s).cmd = s.cmd := by
  unfold capacityCheck; split
  · rfl
  · simp only; split <;> rfl

@[simp] theorem complete_cmd : (complete s).cmd = s.cmd := by
  unfold complete; split <;> try rfl
  · unfold ackCheck; split <;> rfl
  · unfold preambleCheck formSelection normalLengthCheck; split
    · split
      · rfl
      · simp only; split
        · rw [capacityCheck_cmd]
        · rfl
    · rfl
  · unfold extendedLengthCheck; split
    · rw [capacityCheck_cmd]
    · rfl
  · unfold trailerCheck; split
    · rfl
    · split <;> rfl

@[simp] theorem capacityCheck_maxLen : (capacityCheck s).maxLen = s.maxLen := by
  unfold capacityCheck; split
  · rfl
  · simp only; split <;> rfl

@[simp] theorem complete_maxLen : (complete s).maxLen = s.maxLen := by
  unfold complete; split <;> try rfl
  · unfold ackCheck; split <;> rfl
  · unfold preambleCheck formSelection normalLengthCheck; split
    · split
      · rfl
      · simp only; split
        · rw [capacityCheck_maxLen]
        · rfl
    · rfl
  · unfold extendedLengthCheck; split
    · rw [capacityCheck_maxLen]
    · rfl
  · unfold trailerCheck; split
    · rfl
    · split <;> rfl

@[simp] theorem capacityCheck_hb : (capacityCheck s).hb = s.hb := by
  unfold capacityCheck; split
  · rfl
  · simp only; split <;> rfl

@[simp] theorem complete_hb : (complete s).hb = s.hb := by
  unfold complete; split <;> try rfl
  · unfold ackCheck; split <;> rfl
  · unfold preambleCheck formSelection normalLengthCheck; split
    · split
      · rfl
      · simp only; split
        · rw [capacityCheck_hb]
        · rfl
    · rfl
  · unfold extendedLengthCheck; split
    · rw [capacityCheck_hb]
    · rfl
  · unfold trailerCheck; split
    · rfl
    · split <;> rfl

@[simp] theorem capacityCheck_tb : (capacityCheck s).tb = s.tb := by
  unfold capacityCheck; split
  · rfl
  · simp only; split <;> rfl

@[simp] theorem complete_tb : (complete s).tb = s.tb := by
  unfold complete; split <;> try rfl
  · unfold ackCheck; split <;> rfl
  · unfold preambleCheck formSelection normalLengthCheck; split
    · split
      · rfl
      · simp only; split
        · rw [capacityCheck_tb]
        · rfl
    · rfl
  · unfold extendedLengthCheck; split
    · rw [capacityCheck_tb]
    · rfl
  · unfold trailerCheck; split
    · rfl
    · split <;> rfl

@[simp] theorem capacityCheck_ts : (capacityCheck s).ts = s.ts := by
  unfold capacityCheck; split
  · rfl
  · simp only; split <;> rfl

@[simp] theorem complete_ts : (complete s).ts = s.ts := by
  unfold complete; split <;> try rfl
  · unfold ackCheck; split <;> rfl
  · unfold preambleCheck formSelection normalLengthCheck; split
    · split
      · rfl
      · simp only; split
        · rw [capacityCheck_ts]
        · rfl
    · rfl
  · unfold extendedLengthCheck; split
    · rw [capacityCheck_ts]
    · rfl
  · unfold trailerCheck; split
    · rfl
    · split <;> rfl

@[simp] theorem capacityCheck_pendReason : (capacityCheck s).pendReason = s.pendReason := by
  unfold capacityCheck; split
  · rfl
  · simp only; split <;> rfl

@[simp] theorem complete_pendReason : (complete s).pendReason = s.pendReason := by
  unfold complete; split <;> try rfl
  · unfold ackCheck; split <;> rfl
  · unfold preambleCheck formSelection normalLengthCheck; split
    · split
      · rfl
      · simp only; split
        · rw [capacityCheck_pendReason]
        · rfl
    · rfl
  · unfold extendedLengthCheck; split
    · rw [capacityCheck_pendReason]
    · rfl
  · unfold trailerCheck; split
    · rfl
    · split <;> rfl

@[simp] theorem capacityCheck_tx : (capacityCheck s).tx = s.tx := by
  unfold capacityCheck; split
  · rfl
  · simp only; split <;> rfl

@[simp] theorem complete_tx : (complete s).tx = s.tx := by
  unfold complete; split <;> try rfl
  · unfold ackCheck; split <;> rfl
  · unfold preambleCheck formSelection normalLengthCheck; split
    · split
      · rfl
      · simp only; split
        · rw [capacityCheck_tx]
        · rfl
    · rfl
  · unfold extendedLengthCheck; split
    · rw [capacityCheck_tx]
    · rfl
  · unfold trailerCheck; split
    · rfl
    · split <;> rfl

@[simp] theorem capacityCheck_rx : (capacityCheck s).rx = s.rx := by
  unfold capacityCheck; split
  · rfl
  · simp only; split <;> rfl

@[simp] theorem complete_rx : (complete s).rx = s.rx := by
  unfold complete; split <;> try rfl
  · unfold ackCheck; split <;> rfl
  · unfold preambleCheck formSelection normalLengthCheck; split
    · split
      · rfl
      · simp only; split
        · rw [capacityCheck_rx]
        · rfl
    · rfl
  · unfold extendedLengthCheck; split
    · rw [capacityCheck_rx]
    · rfl
  · unfold trailerCheck; split
    · rfl
    · split <;> rfl

@[simp] theorem capacityCheck_clk : (capacityCheck s).clk = s.clk := by
  unfold capacityCheck; split
  · rfl
  · simp only; split <;> rfl

@[simp] theorem complete_clk : (complete s).clk = s.clk := by
  unfold complete; split <;> try rfl
  · unfold ackCheck; split <;> rfl
  · unfold preambleCheck formSelection normalLengthCheck; split
    · split
      · rfl
      · simp only; split
        · rw [capacityCheck_clk]
        · rfl
    · rfl
  · unfold extendedLengthCheck; split
    · rw [capacityCheck_clk]
    · rfl
  · unfold trailerCheck; split
    · rfl
    · split <;> rfl

@[simp] theorem capacityCheck_held : (capacityCheck s).held = s.held := by
  unfold capacityCheck; split
  · rfl
  · simp only; split <;> rfl

@[simp] theorem complete_held : (complete s).held = s.held := by
  unfold complete; split <;> try rfl
  · unfold ackCheck; split <;> rfl
  · unfold preambleCheck formSelection normalLengthCheck; split
    · split
      · rfl
      · simp only; split
        · rw [capacityCheck_held]
        · rfl
    · rfl
  · unfold extendedLengthCheck; split
    · rw [capacityCheck_held]
    · rfl
  · unfold trailerCheck; split
    · rfl
    · split <;> rfl

@[simp] theorem capacityCheck_agenda : (capacityCheck s).agenda = s.agenda := by
  unfold capacityCheck; split
  · rfl
  · simp only; split <;> rfl

@[simp] theorem complete_agenda : (complete s).agenda = s.agenda := by
  unfold complete; split <;> try rfl
  · unfold ackCheck; split <;> rfl
  · unfold preambleCheck formSelection normalLengthCheck; split
    · split
      · rfl
      · simp only; split
        · rw [capacityCheck_agenda]
        · rfl
    · rfl
  · unfold extendedLengthCheck; split
    · rw [capacityCheck_agenda]
    · rfl
  · unfold trailerCheck; split
    · rfl
    · split <;> rfl

@[simp] theorem capacityCheck_resets : (capacityCheck s).resets = s.resets := by
  unfold capacityCheck; split
  · rfl
  · simp only; split <;> rfl

@[simp] theorem complete_resets : (complete s).resets = s.resets := by
  unfold complete; split <;> try rfl
  · unfold ackCheck; split <;> rfl
  · unfold preambleCheck formSelection normalLengthCheck; split
    · split
      · rfl
      · simp only; split
        · rw [capacityCheck_resets]
        · rfl
    · rfl
  · unfold extendedLengthCheck; split
    · rw [capacityCheck_resets]
    · rfl
  · unfold trailerCheck; split
    · rfl
    · split <;> rfl

/-! ## Where a complete block goes -/

/-- The capacity check fails, or goes on to the payload or the trailer (R181). -/
theorem capacityCheck_fsm : (capacityCheck s).fsm = .failed ∨ (capacityCheck s).fsm = .awaitingPayload ∨
    (capacityCheck s).fsm = .awaitingTrailer := by
  unfold capacityCheck
  split
  · exact .inl rfl
  · simp only
    split
    · exact .inr (.inr rfl)
    · exact .inr (.inl rfl)

/-- A complete block changes the state as the table of R192 says, and never enters the cancel (R226). -/
theorem complete_fsm (hf : s.fsm.timeoutReason?.isSome) :
    s.fsm.mayBecome (complete s).fsm = true ∧ (complete s).fsm ≠ .cancelling ∧ (complete s).fsm ≠ s.fsm := by
  unfold complete
  split <;> rename_i h <;> simp only [h] at hf ⊢ <;> try (simp [FsmState.timeoutReason?] at hf; done)
  · unfold ackCheck; split <;> simp only [beginRead, protocolError, fail, returnStatus, reply] <;> decide
  · unfold preambleCheck formSelection normalLengthCheck; split
    · split
      · simp only [beginRead]; decide
      · simp only; split
        · rcases capacityCheck_fsm { s with form := .normal, declLen := s.hb[3].setWidth 16 } with e | e | e <;>
            rw [e] <;> decide
        · simp only [protocolError, fail, returnStatus, reply]; decide
    · simp only [protocolError, fail, returnStatus, reply]; decide
  · unfold extendedLengthCheck; split
    · rcases capacityCheck_fsm { s with declLen := BitVec.ofNat 16 (extendedLength s.hb[5] s.hb[6]) } with e | e | e <;>
        rw [e] <;> decide
    · simp only [protocolError, fail, returnStatus, reply]; decide
  · simp only [enterTrailer, beginRead]; decide
  · unfold trailerCheck; split
    · simp only [protocolError, fail, returnStatus, reply]; decide
    · split
      · simp only [protocolError, fail, returnStatus, reply]; decide
      · simp only [succeed, returnStatus, reply]; decide

/-- The capacity check fails with its own reason only (R181). -/
theorem capacityCheck_failed : (capacityCheck s).fsm = .failed →
    (capacityCheck s).kind = .protocolError ∧ (capacityCheck s).reason = .peLengthOverCapacity := by
  unfold capacityCheck
  split
  · intro _; exact ⟨rfl, rfl⟩
  · simp only; split <;> simp [enterTrailer, beginRead]

/-- A complete block fails as a protocol error only (R189). -/
theorem complete_failed (hf : s.fsm.timeoutReason?.isSome) : (complete s).fsm = .failed →
    (complete s).kind = .protocolError ∧ (complete s).reason.kind? = some .protocolError := by
  unfold complete
  split <;> rename_i h <;> simp only [h] at hf ⊢ <;> try (simp [FsmState.timeoutReason?] at hf; done)
  · unfold ackCheck; split <;> simp [beginRead, protocolError, fail, returnStatus, reply, Reason.kind?]
  · unfold preambleCheck formSelection normalLengthCheck; split
    · split
      · simp [beginRead]
      · simp only; split
        · intro hh
          obtain ⟨h1, h2⟩ := capacityCheck_failed _ hh
          rw [h1, h2]; decide
        · simp [protocolError, fail, returnStatus, reply, Reason.kind?]
    · simp [protocolError, fail, returnStatus, reply, Reason.kind?]
  · unfold extendedLengthCheck; split
    · intro hh
      obtain ⟨h1, h2⟩ := capacityCheck_failed _ hh
      rw [h1, h2]; decide
    · simp [protocolError, fail, returnStatus, reply, Reason.kind?]
  · simp [enterTrailer, beginRead]
  · unfold trailerCheck; split
    · simp [protocolError, fail, returnStatus, reply, Reason.kind?]
    · split
      · simp [protocolError, fail, returnStatus, reply, Reason.kind?]
      · simp [succeed, returnStatus, reply]

/-! ## What an engine step can do -/

/-- An engine step from a state whose block read is in order: nothing, the sending step, a poll that completes its block, a
poll that does not, or the end of a cancel (R171 to R187). -/
theorem engineStep_next {s t : State} (hm : s.maxLen.toNat ≤ respBufCap) (hr : ReadAgrees s)
    (h : engineStep s = .next t) :
    (t = s ∧ s.fsm.timeoutReason? = none ∧ s.fsm ≠ .sending) ∨
    (s.fsm = .sending ∧ t = sendCommand s) ∨
    (s.fsm.timeoutReason?.isSome ∧ blockBuffered s ∧ t = complete (afterBytes s)) ∨
    (s.fsm.timeoutReason?.isSome ∧ ¬ blockBuffered s ∧ t = clockCheck (afterBytes s)) ∨
    (s.fsm = .cancelling ∧ cancelSettled s = true ∧ t = cancelEnd s) := by
  by_cases hf : s.fsm.timeoutReason?.isSome
  · by_cases hb : blockBuffered s
    · rw [engineStep_of_buffered hm hr hf hb] at h
      exact .inr (.inr (.inl ⟨hf, hb, (Host.Outcome.next.inj h).symm⟩))
    · rw [engineStep_of_short hm hr hf hb] at h
      exact .inr (.inr (.inr (.inl ⟨hf, hb, (Host.Outcome.next.inj h).symm⟩)))
  · have hn : s.fsm.timeoutReason? = none := by simpa using hf
    unfold engineStep at h
    cases hs : s.fsm <;> simp only [hs, FsmState.timeoutReason?, Option.isSome_some, not_true_eq_false] at h hf <;>
      have h := Host.Outcome.next.inj h
    · exact .inl ⟨h.symm, rfl, by simp⟩
    · exact .inr (.inl ⟨rfl, h.symm⟩)
    · exact .inl ⟨h.symm, rfl, by simp⟩
    · exact .inl ⟨h.symm, rfl, by simp⟩
    · split at h
      · exact .inr (.inr (.inr (.inr ⟨rfl, ‹_›, h.symm⟩)))
      · exact .inl ⟨h.symm, rfl, by simp⟩

/-- The engine's turn is its step and the lifting of the hold. -/
theorem engineTurn_next {s t : State} (h : engineTurn s = .next t) : ∃ u, engineStep s = .next u ∧ t = liftHeld u := by
  unfold engineTurn andThen at h
  split at h
  · exact ⟨_, ‹_›, (Host.Outcome.next.inj h).symm⟩
  · cases h
  · cases h

end Sys2Proof.Machine
end

