-- ==== Sys2Proof/Laws/Decode.lean ====
section
/-! SUPPORT. The laws of the operation-code table (spec/30_encoding.md R109, R110) and of `accept`. -/

namespace Sys2Proof

/-- Every operation has a code of its own. -/
@[simp] theorem HostOp.ofCode_code (h : HostOp) : HostOp.ofCode h.code = some h := by
  cases h <;> rfl

/-- An operation found by its code has that code. -/
theorem HostOp.code_of_ofCode {op : Byte} {h : HostOp} (e : HostOp.ofCode op = some h) : h.code = op := by
  simpa using List.find?_some e

/-- `accept` answers exactly the well-formed. -/
@[simp] theorem accept_of_wellFormed {op : Byte} {i : Instr} (h : i.wellFormed = true) : accept op i = .ok i := by
  simp [accept, h]

theorem accept_eq_ok {op : Byte} {i j : Instr} (h : accept op i = .ok j) : j = i ∧ i.wellFormed = true := by
  unfold accept at h
  split at h
  · exact ⟨(Except.ok.inj h).symm, ‹_›⟩
  · cases h

/-! What each operand form takes when it answers. -/

theorem formNone_eq_ok {op : Byte} {os : List Operand} {i j : Instr} (h : formNone op os i = .ok j) :
    os = [] ∧ j = i := by
  unfold formNone at h
  split at h <;> cases h
  exact ⟨rfl, rfl⟩

theorem formU32_eq_ok {op : Byte} {os : List Operand} {f : U32 → Instr} {j : Instr} (h : formU32 op os f = .ok j) :
    ∃ v, os = [.u32 v] ∧ j = f v := by
  unfold formU32 at h
  split at h <;> cases h
  exact ⟨_, rfl, rfl⟩

theorem formU16_eq_ok {op : Byte} {os : List Operand} {f : U16 → Instr} {j : Instr} (h : formU16 op os f = .ok j) :
    ∃ v, os = [.u16 v] ∧ j = f v := by
  unfold formU16 at h
  split at h <;> cases h
  exact ⟨_, rfl, rfl⟩

theorem formBytes_eq_ok {op : Byte} {os : List Operand} {f : List Byte → Instr} {j : Instr}
    (h : formBytes op os f = .ok j) : ∃ s, os = [.bytes s] ∧ j = f s ∧ (f s).wellFormed = true := by
  unfold formBytes at h
  split at h
  · exact ⟨_, rfl, accept_eq_ok h⟩
  · cases h

theorem formBytesU16_eq_ok {op : Byte} {os : List Operand} {f : List Byte → U16 → Instr} {j : Instr}
    (h : formBytesU16 op os f = .ok j) : ∃ s v, os = [.bytes s, .u16 v] ∧ j = f s v ∧ (f s v).wellFormed = true := by
  unfold formBytesU16 at h
  split at h
  · exact ⟨_, _, rfl, accept_eq_ok h⟩
  · cases h

/-- Received bytes that are read as a frame unit are that unit's encoding. -/
theorem decodeReceived_ok {b : List Byte} {i : Instr} (h : decodeReceived b = .ok i) : encode i = .received b := by
  unfold decodeReceived at h
  split at h
  · split at h
    · cases h; subst_vars; rfl
    · cases h
  · split at h
    · rename_i hh; cases h
      simp only [encode, ← hh.1]; rfl
    · cases h
  · split at h
    · rename_i hh; cases h
      simp only [encode]; rw [hh]
    · cases h
  · split at h
    · rename_i hh
      obtain ⟨h1, rfl, rfl⟩ := hh
      cases h
      simp only [encode, ← h1]; rfl
    · cases h
  · cases h

/-- Received bytes are rejected as raw bytes only. -/
theorem decodeReceived_error {b : List Byte} {r : Reject} (h : decodeReceived b = .error r) : r = .notAFrameUnit b := by
  unfold decodeReceived at h
  split at h
  · split at h <;> simp_all
  · split at h
    · cases h
    · exact (Except.error.inj h).symm
  · split at h
    · cases h
    · exact (Except.error.inj h).symm
  · split at h
    · cases h
    · exact (Except.error.inj h).symm
  · exact (Except.error.inj h).symm

end Sys2Proof
end

