-- ==== Sys2Proof/Laws/PerInstr.lean ====
section
/-! SUPPORT. Per-instruction laws: one family, one lemma per constructor of `Instr`. -/

namespace Sys2Proof.Laws.HeldAsRequest

/-- What can be held while the block is busy is a host request (spec/40_linkconfig.md R129): an operation that needs a ready
block is encoded as an operation code with operands, never as bytes of the link. -/
def Statement (i : Instr) : Prop :=
  i.needsReady = true → ∃ op operands, encode i = .request op operands

theorem setTimeout (t : U32) : Statement (.setTimeout t) := fun _ => ⟨_, _, rfl⟩
theorem getTimeout : Statement (.getTimeout) := fun _ => ⟨_, _, rfl⟩
theorem exchange (cmd : List Byte) (maxLen : U16) : Statement (.exchange cmd maxLen) := fun _ => ⟨_, _, rfl⟩
theorem getStatus : Statement (.getStatus) := fun _ => ⟨_, _, rfl⟩
theorem getRespLen : Statement (.getRespLen) := fun _ => ⟨_, _, rfl⟩
theorem readResp (i : U16) : Statement (.readResp i) := fun _ => ⟨_, _, rfl⟩
theorem checksum (s : List Byte) : Statement (.checksum s) := fun h => nomatch h
theorem encodeFrame (p : List Byte) : Statement (.encodeFrame p) := fun h => nomatch h
theorem isAck (s : List Byte) : Statement (.isAck s) := fun h => nomatch h
theorem decodeFrame (s : List Byte) (cap : U16) : Statement (.decodeFrame s cap) := fun h => nomatch h
theorem timeoutX2 : Statement (.timeoutX2) := fun _ => ⟨_, _, rfl⟩
theorem frameAck : Statement (.frameAck) := fun h => nomatch h
theorem cancelSequence : Statement (.cancelSequence) := fun h => nomatch h
theorem frameExtHeader (lenh lenl lcs : Byte) : Statement (.frameExtHeader lenh lenl lcs) := fun h => nomatch h
theorem frameNormalHeader (len lcs : Byte) : Statement (.frameNormalHeader len lcs) := fun h => nomatch h
theorem frameTrailer (dcs : Byte) : Statement (.frameTrailer dcs) := fun h => nomatch h

end Sys2Proof.Laws.HeldAsRequest
end

