-- ==== Sys2Proof/Laws/Step.lean ====
section
/-! SUPPORT. The laws of the step: one equation per kind of turn, and what each meaning can do to a state. -/

namespace Sys2Proof.Machine

theorem step_idle (s : State) (h : s.agenda = []) : step s = idleTurn s := by simp [step, nextTurn, h]

theorem step_turn (s : State) {t : Turn} {rest : List Turn} (h : s.agenda = t :: rest) :
    step s = runTurn t { s with agenda := rest } := by simp [step, nextTurn, h]

/-- Every meaning that needs a ready block holds its request while the block is busy. -/
theorem whenReady_busy {i : Instr} {s : State} {go : Host.Outcome State Fault Refusal} (h : s.fsm.busy = true) :
    whenReady i s go = .next (hold s i) := by simp [whenReady, h]

theorem whenReady_ready {i : Instr} {s : State} {go : Host.Outcome State Fault Refusal} (h : s.fsm.busy = false) :
    whenReady i s go = go := by simp [whenReady, h]

/-- What a meaning can do when it answers a next state: hold the request, write `TIMEOUT` and answer, accept an exchange,
answer only, take bytes in from the remote, enter the cancel, or nothing. -/
theorem exec_next {i : Instr} {s t : State} (h : exec i s = .next t) :
    (s.fsm.busy = true ∧ i.needsReady = true ∧ t = hold s i) ∨
    (s.fsm.busy = false ∧ ∃ v, i = .setTimeout v ∧ t = reply { s with timeout := v } .setTimeout .none) ∨
    (s.fsm.busy = false ∧ ∃ cmd maxLen, i = .exchange cmd maxLen ∧ maxLen.toNat ≤ respBufCap ∧
      t = { s with cmd := cmd, maxLen := maxLen, kind := .none, reason := .none, fsm := .sending }) ∨
    (∃ op r, t = reply s op r) ∨
    (∃ b, t = deliver s b) ∨
    (i = .cancelSequence ∧ cancelDue s = true ∧ t = clockCheck s) ∨
    t = s := by
  cases i with
  | setTimeout v =>
    cases hb : s.fsm.busy <;> simp [exec, execSetTimeout, whenReady, hb] at h
    · exact .inr (.inl ⟨rfl, v, rfl, h.symm⟩)
    · exact .inl ⟨rfl, rfl, h.symm⟩
  | getTimeout =>
    cases hb : s.fsm.busy <;> simp [exec, execGetTimeout, whenReady, hb] at h
    · exact .inr (.inr (.inr (.inl ⟨_, _, h.symm⟩)))
    · exact .inl ⟨rfl, rfl, h.symm⟩
  | exchange cmd maxLen =>
    cases hb : s.fsm.busy <;> simp [exec, execExchange, whenReady, hb] at h
    · unfold requireCapacity at h
      split at h
      · exact .inr (.inr (.inl ⟨rfl, cmd, maxLen, rfl, ‹_›, (Host.Outcome.next.inj h).symm⟩))
      · cases h
    · exact .inl ⟨rfl, rfl, h.symm⟩
  | getStatus =>
    cases hb : s.fsm.busy <;> simp [exec, execGetStatus, whenReady, hb] at h
    · exact .inr (.inr (.inr (.inl ⟨_, _, h.symm⟩)))
    · exact .inl ⟨rfl, rfl, h.symm⟩
  | getRespLen =>
    cases hb : s.fsm.busy <;> simp [exec, execGetRespLen, whenReady, hb] at h
    · exact .inr (.inr (.inr (.inl ⟨_, _, h.symm⟩)))
    · exact .inl ⟨rfl, rfl, h.symm⟩
  | readResp idx =>
    cases hb : s.fsm.busy <;> simp [exec, execReadResp, whenReady, hb] at h
    · unfold requireRespIndex at h
      split at h
      · exact .inr (.inr (.inr (.inl ⟨_, _, (Host.Outcome.next.inj h).symm⟩)))
      · cases h
    · exact .inl ⟨rfl, rfl, h.symm⟩
  | timeoutX2 =>
    cases hb : s.fsm.busy <;> simp [exec, execTimeoutX2, whenReady, hb] at h
    · exact .inr (.inr (.inr (.inl ⟨_, _, h.symm⟩)))
    · exact .inl ⟨rfl, rfl, h.symm⟩
  | checksum b => exact .inr (.inr (.inr (.inl ⟨_, _, (Host.Outcome.next.inj h).symm⟩)))
  | encodeFrame b => exact .inr (.inr (.inr (.inl ⟨_, _, (Host.Outcome.next.inj h).symm⟩)))
  | isAck b => exact .inr (.inr (.inr (.inl ⟨_, _, (Host.Outcome.next.inj h).symm⟩)))
  | decodeFrame b cap => exact .inr (.inr (.inr (.inl ⟨_, _, (Host.Outcome.next.inj h).symm⟩)))
  | frameAck => exact .inr (.inr (.inr (.inr (.inl ⟨_, (Host.Outcome.next.inj h).symm⟩))))
  | frameExtHeader a b c => exact .inr (.inr (.inr (.inr (.inl ⟨_, (Host.Outcome.next.inj h).symm⟩))))
  | frameNormalHeader a b => exact .inr (.inr (.inr (.inr (.inl ⟨_, (Host.Outcome.next.inj h).symm⟩))))
  | frameTrailer a => exact .inr (.inr (.inr (.inr (.inl ⟨_, (Host.Outcome.next.inj h).symm⟩))))
  | cancelSequence =>
    simp only [exec, execCancelSequence, Host.Outcome.next.injEq] at h
    split at h
    · exact .inr (.inr (.inr (.inr (.inr (.inl ⟨rfl, ‹_›, h.symm⟩)))))
    · exact .inr (.inr (.inr (.inr (.inr (.inr h.symm)))))

/-- No meaning faults. -/
theorem exec_no_fault (i : Instr) (s : State) (r : Fault) : exec i s ≠ .fault r := by
  cases i <;> simp [exec, execSetTimeout, execGetTimeout, execExchange, execGetStatus, execGetRespLen, execReadResp,
    execChecksum, execEncodeFrame, execIsAck, execDecodeFrame, execTimeoutX2, execFrameAck, execCancelSequence,
    execFrameExtHeader, execFrameNormalHeader, execFrameTrailer, whenReady, requireCapacity, requireRespIndex] <;>
    (try split) <;> (try split) <;> simp

/-- What a packet's turn can do when it answers a next state: run its instruction, or take raw bytes in. -/
theorem runPacket_next {p : Packet} {s t : State} (h : runPacket p s = .next t) :
    (∃ i, decode p = .ok i ∧ exec i s = .next t) ∨ ∃ b, t = deliver s b := by
  unfold runPacket at h
  split at h
  · exact .inl ⟨_, ‹_›, h⟩
  · unfold runRejected at h
    split at h <;> simp at h
    exact .inr ⟨_, h.symm⟩

/-- Every way a step answers a next state: the turn of a packet, the engine, the clock or the reset input, scheduled or,
for the engine and the clock, because nothing is. -/
theorem step_next {s t : State} (h : step s = .next t) :
    (∃ p rest, s.agenda = .packet p :: rest ∧ runPacket p { s with agenda := rest } = .next t) ∨
    (∃ rest, s.agenda = .engine :: rest ∧ engineTurn { s with agenda := rest } = .next t) ∨
    (s.agenda = [] ∧ engineEnabled s = true ∧ engineTurn s = .next t) ∨
    (∃ rest, s.agenda = .tick :: rest ∧ t = tick { s with agenda := rest }) ∨
    (s.agenda = [] ∧ engineEnabled s = false ∧ t = tick s) ∨
    (∃ rest, s.agenda = .reset :: rest ∧ t = resetInput { s with agenda := rest }) ∨
    (∃ k rest, s.agenda = .resetInWrite k :: rest ∧ t = resetInWrite k { s with agenda := rest }) := by
  cases ha : s.agenda with
  | nil =>
    rw [step_idle s ha, idleTurn] at h
    split at h
    · exact .inr (.inr (.inl ⟨rfl, ‹_›, h⟩))
    · exact .inr (.inr (.inr (.inr (.inl ⟨rfl, Bool.eq_false_iff.2 ‹_›, (Host.Outcome.next.inj h).symm⟩))))
  | cons x rest =>
    rw [step_turn s ha] at h
    cases x with
    | packet p => exact .inl ⟨p, rest, rfl, h⟩
    | engine => exact .inr (.inl ⟨rest, rfl, h⟩)
    | tick => exact .inr (.inr (.inr (.inl ⟨rest, rfl, (Host.Outcome.next.inj h).symm⟩)))
    | reset => exact .inr (.inr (.inr (.inr (.inr (.inl ⟨rest, rfl, (Host.Outcome.next.inj h).symm⟩)))))
    | resetInWrite k => exact .inr (.inr (.inr (.inr (.inr (.inr ⟨k, rest, rfl, (Host.Outcome.next.inj h).symm⟩)))))

/-- Bytes from the remote arrive whatever they are: a unit of the table is a delivery of its bytes, and so is anything else
(R67). -/
theorem runPacket_received (b : List Byte) (s : State) : runPacket (.received b) s = .next (deliver s b) := by
  simp only [runPacket, decode]
  cases h : decodeReceived b with
  | ok i =>
    have e := decodeReceived_ok h
    cases i <;> cases e <;> rfl
  | error r =>
    cases decodeReceived_error h
    rfl

end Sys2Proof.Machine
end

