-- ==== Sys2Proof/Tests/Slice0.lean ====
section
/-! SUPPORT. The model's own tests: what `WellFormed` refuses, decoded words written out from the spec's encodings, the worked
examples of the rules (each test names its source), and a witness for every statement that has hypotheses. -/

namespace Sys2Proof.Tests

open Sys2Proof.Machine

/-! ## Helpers -/

/-- A field of the next state, `none` after a fault or a refusal. -/
def after {α : Type} (o : Host.Outcome State Fault Refusal) (f : State → α) : Option α :=
  match o with
  | .next s => some (f s)
  | .fault _ => none
  | .refused _ => none

/-- Why a step was refused, if it was. -/
def refusal (o : Host.Outcome State Fault Refusal) : Option Refusal :=
  match o with
  | .next _ => none
  | .fault _ => none
  | .refused r => some r

/-- A ready block with every open value chosen: `CANCEL_SETTLE_MS = 5`, `DERIVED_TIMEOUT_MAX = 0xFFFF`, `TIMEOUT_RESET = 100`. -/
def ready : State :=
  { State.reset with
    params := ⟨5, 0xFFFF, 100, none⟩
    timeout := 100
    respLen := 2
    resp := [(0, 0xD5), (1, 0x33)]
    clk := 1000 }

/-- The same block with a packet presented. -/
def presented (p : Packet) : State := { ready with agenda := [.packet p] }

/-- A block in the middle of a block read, 50 ms into its window. -/
def reading (f : FsmState) (n : U16) (d : Dst) (rx : List Byte) : State :=
  { ready with fsm := f, maxLen := 2, need := n, cnt := 0, dst := d, t0 := 950, rx := rx }

def sending : State := { ready with fsm := .sending, cmd := [0xD4, 0x02], maxLen := 2, rx := [0xAA] }
def awaitingAck (rx : List Byte) : State := reading .awaitingAck 6 .hb0 rx
def awaitingHeader (rx : List Byte) : State := reading .awaitingResponseHeader 5 .hb0 rx
def awaitingLength (rx : List Byte) : State :=
  { reading .awaitingResponseLength 3 .hb5 rx with form := .extended }
def awaitingPayload (rx : List Byte) : State :=
  { reading .awaitingPayload 2 .resp0 rx with declLen := 2 }
def awaitingTrailer (rx : List Byte) : State :=
  { reading .awaitingTrailer 2 .tb0 rx with declLen := 2 }
def cancelling : State := { ready with fsm := .cancelling, ts := 996, pendReason := .toAck, rx := [0x01] }

/-! ## WellFormed: one ill-formed term for each check -/

/-- R111: a command longer than its `u16` length. -/
theorem test_wellFormed_refuses_long_command :
    ∀ n, n = 65536 → (Instr.exchange (List.replicate n 0) 0).wellFormed = false := by
  intro n h
  exact decide_eq_false (by rw [List.length_replicate, h]; decide)

theorem test_wellFormed_refuses_long_checksum :
    ∀ n, n = 65536 → (Instr.checksum (List.replicate n 0)).wellFormed = false := by
  intro n h
  exact decide_eq_false (by rw [List.length_replicate, h]; decide)

theorem test_wellFormed_refuses_long_payload :
    ∀ n, n = 65536 → (Instr.encodeFrame (List.replicate n 0)).wellFormed = false := by
  intro n h
  exact decide_eq_false (by rw [List.length_replicate, h]; decide)

theorem test_wellFormed_refuses_long_ack :
    ∀ n, n = 65546 → (Instr.isAck (List.replicate n 0)).wellFormed = false := by
  intro n h
  exact decide_eq_false (by rw [List.length_replicate, h]; decide)

theorem test_wellFormed_refuses_long_frame :
    ∀ n, n = 65546 → (Instr.decodeFrame (List.replicate n 0) 0).wellFormed = false := by
  intro n h
  exact decide_eq_false (by rw [List.length_replicate, h]; decide)

/-- R98: `FF FF` after the preamble is the extended marker. -/
theorem test_wellFormed_refuses_marker_header : (Instr.frameNormalHeader 0xFF 0xFF).wellFormed = false := by decide

/-- R109, R96: the longest frame is accepted. -/
theorem test_wellFormed_accepts_longest :
    ∀ n, n = 65545 → (Instr.decodeFrame (List.replicate n 0) 0).wellFormed = true := by
  intro n h
  exact decide_eq_true (by rw [List.length_replicate, h]; decide)

/-- R128: the first index outside `RESP`. -/
theorem test_operandsLegal_refuses_index : (Instr.readResp 265).operandsLegal = false := by decide

/-- R111: the first capacity above the buffer's. -/
theorem test_operandsLegal_refuses_capacity : (Instr.exchange [] 266).operandsLegal = false := by decide

/-! ## Decoding: words written out from R92 to R95, R103, R109 -/

theorem test_decode_setTimeout : decode (.request 0x01 [.u32 1000]) = .ok (.setTimeout 1000) := rfl
theorem test_decode_getTimeout : decodeTableWord 8 0x02 = some .getTimeout := rfl
theorem test_decode_exchange :
    decode (.request 0x03 [.bytes [0xD4, 0x02], .u16 265]) = .ok (.exchange [0xD4, 0x02] 265) := rfl
theorem test_decode_getStatus : decodeTableWord 8 0x04 = some .getStatus := rfl
theorem test_decode_getRespLen : decodeTableWord 8 0x05 = some .getRespLen := rfl
theorem test_decode_readResp : decode (.request 0x06 [.u16 264]) = .ok (.readResp 264) := rfl
theorem test_decode_checksum : decode (.request 0x10 [.bytes [0xD5, 0x33]]) = .ok (.checksum [0xD5, 0x33]) := rfl
theorem test_decode_encodeFrame : decode (.request 0x11 [.bytes [0xD4]]) = .ok (.encodeFrame [0xD4]) := rfl
theorem test_decode_isAck : decode (.request 0x12 [.bytes []]) = .ok (.isAck []) := rfl
theorem test_decode_decodeFrame : decode (.request 0x13 [.bytes [0x00], .u16 7]) = .ok (.decodeFrame [0x00] 7) := rfl
theorem test_decode_timeoutX2 : decodeTableWord 8 0x14 = some .timeoutX2 := rfl

/-- R103: "The ACK frame is the 48-bit word `0x0000FF00FF00`". -/
theorem test_decode_frameAck : decodeTableWord 48 0x0000FF00FF00 = some .frameAck := by decide

/-- R115: the same bytes on the engine's own channel. -/
theorem test_decode_cancelSequence : decode (.sent [0x00, 0x00, 0xFF, 0x00, 0xFF, 0x00]) = .ok .cancelSequence := by rfl

/-- R144: the header of a 256-byte payload. -/
theorem test_decode_frameExtHeader :
    decodeTableWord 64 0x0000FFFFFF0100FF = some (.frameExtHeader 0x01 0x00 0xFF) := by decide

/-- R105: the header of a 255-byte payload. -/
theorem test_decode_frameNormalHeader : decodeTableWord 40 0x0000FFFF01 = some (.frameNormalHeader 0xFF 0x01) := by decide

/-- R103: `DCS` at bits 15:8, the postamble at 7:0. -/
theorem test_decode_frameTrailer : decodeTableWord 16 0xF800 = some (.frameTrailer 0xF8) := by decide

/-- R110: the ends of each undefined range. -/
theorem test_decode_undefined_codes :
    ∀ op ∈ [0x00, 0x07, 0x0F, 0x15, 0xFF], decode (.request op []) = .error (.undefinedOperation op) := by decide

/-- R109: a missing operand, and one of the wrong type. -/
theorem test_decode_operands :
    decode (.request 0x06 []) = .error (.operandsDoNotFit 0x06) ∧
    decode (.request 0x01 [.u16 1]) = .error (.operandsDoNotFit 0x01) := by decide

/-- R98: the first five bytes of an extended header are no unit. -/
theorem test_decode_marker_is_no_header :
    decode (.received [0x00, 0x00, 0xFF, 0xFF, 0xFF]) = .error (.notAFrameUnit [0x00, 0x00, 0xFF, 0xFF, 0xFF]) := by decide

/-! ## One step of each instruction -/

/-- R120, example. -/
theorem test_setTimeout : after (step (presented (.request 0x01 [.u32 50]))) (·.timeout) = some 50 := by decide

/-- R129: held while busy, `TIMEOUT` as before. -/
theorem test_setTimeout_held :
    after (step { awaitingAck [] with agenda := [.packet (.request 0x01 [.u32 50])] }) (fun s => (s.timeout, s.held)) =
      some (100, [.request 0x01 [.u32 50]]) := by decide

/-- R121, example. -/
theorem test_getTimeout :
    after (step { presented (.request 0x02 []) with timeout := 50 }) (·.replies) = some [⟨.getTimeout, .u32 50⟩] := by decide

/-- R124, example: `TIMEOUT = 100` gives 200. -/
theorem test_timeoutX2 :
    after (step (presented (.request 0x14 []))) (·.replies) = some [⟨.timeoutX2, .u32 200⟩] := by decide

/-- R124, example: `TIMEOUT = 40000` saturates at `0xFFFF`. -/
theorem test_timeoutX2_saturates :
    after (step { presented (.request 0x14 []) with timeout := 40000 }) (·.replies) =
      some [⟨.timeoutX2, .u32 0xFFFF⟩] := by decide

/-- R125, example: an ACK-phase timeout reads `0x00080102`. -/
theorem test_getStatus :
    after (step { presented (.request 0x04 []) with fsm := .failed, kind := .timeout, reason := .toAck }) (·.replies) =
      some [⟨.getStatus, .u32 0x00080102⟩] := by decide

/-- R125: `0x00000000` after reset. -/
theorem test_getStatus_reset :
    after (step (presented (.request 0x04 []))) (·.replies) = some [⟨.getStatus, .u32 0x00000000⟩] := by decide

/-- R126, example. -/
theorem test_getRespLen :
    after (step (presented (.request 0x05 []))) (·.replies) = some [⟨.getRespLen, .u16 2⟩] := by decide

/-- R127, example: `READ_RESP 1` of `D5 33`. -/
theorem test_readResp :
    after (step (presented (.request 0x06 [.u16 1]))) (·.replies) = some [⟨.readResp, .u8 0x33⟩] := by decide

/-- R128: index 265. -/
theorem test_readResp_refused :
    refusal (step (presented (.request 0x06 [.u16 265]))) = some (.respIndexOutOfRange 265) := by decide

/-- R140, example. -/
theorem test_checksum :
    after (step (presented (.request 0x10 [.bytes [0xD5, 0x33]]))) (·.replies) = some [⟨.checksum, .u8 0xF8⟩] := by decide

/-- R143, example. -/
theorem test_encodeFrame :
    after (step (presented (.request 0x11 [.bytes [0xD4, 0x02]]))) (·.replies) =
      some [⟨.encodeFrame, .bytes [0x00, 0x00, 0xFF, 0x02, 0xFE, 0xD4, 0x02, 0x2A, 0x00]⟩] := by decide

/-- R144: the header of a 256-byte payload. -/
theorem test_encodeFrame_extended : frameHeader 256 = [0x00, 0x00, 0xFF, 0xFF, 0xFF, 0x01, 0x00, 0xFF] := by decide

/-- R145, example: one bit off. -/
theorem test_isAck :
    after (step (presented (.request 0x12 [.bytes [0x00, 0x00, 0xFF, 0x00, 0xFF, 0x01]]))) (·.replies) =
      some [⟨.isAck, .bool false⟩] := by decide

/-- R146, example, in a busy block: the pure operations never hold (R129). -/
theorem test_decodeFrame :
    after (step { awaitingAck [] with agenda := [.packet (.request 0x13
        [.bytes [0x00, 0x00, 0xFF, 0x02, 0xFE, 0xD5, 0x33, 0xF8, 0x00], .u16 265])] }) (·.replies) =
      some [⟨.decodeFrame, .decoded (.ok [0xD5, 0x33] 9)⟩] := by decide

/-- R147: the DCS before the postamble. -/
theorem test_decodeFrame_order :
    decodeFrame [0x00, 0x00, 0xFF, 0x01, 0xFF, 0x7F, 0x80, 0x01] 265 = .err .peDcs := by decide

/-- R170, acceptance from `Failed` (R233). -/
theorem test_exchange :
    after (step { presented (.request 0x03 [.bytes [0xD4, 0x02], .u16 265]) with
      fsm := .failed, kind := .timeout, reason := .toAck })
      (fun s => (s.fsm, s.kind, s.reason, s.cmd, s.maxLen)) = some (.sending, .none, .none, [0xD4, 0x02], 265) := by decide

/-- R111: `maxLen = 266`. -/
theorem test_exchange_refused :
    refusal (step (presented (.request 0x03 [.bytes [], .u16 266]))) = some (.exchangeOverCapacity 266) := by decide

/-- R95, R67: the bytes arrive behind what is already buffered. -/
theorem test_frameAck :
    after (step { awaitingAck [0x11] with agenda := [.packet (.received [0x00, 0x00, 0xFF, 0x00, 0xFF, 0x00])] }) (·.rx) =
      some [0x11, 0x00, 0x00, 0xFF, 0x00, 0xFF, 0x00] := by decide

theorem test_frameExtHeader : after (exec (.frameExtHeader 0x01 0x08 0xF7) ready) (·.rx) =
    some [0x00, 0x00, 0xFF, 0xFF, 0xFF, 0x01, 0x08, 0xF7] := by decide

theorem test_frameNormalHeader : after (exec (.frameNormalHeader 0x02 0xFE) ready) (·.rx) =
    some [0x00, 0x00, 0xFF, 0x02, 0xFE] := by decide

theorem test_frameTrailer : after (exec (.frameTrailer 0xF8) ready) (·.rx) = some [0xF8, 0x00] := by decide

/-- R68: a full queue loses what does not fit. -/
theorem test_bounded_queue :
    after (exec (.frameTrailer 0xF8) { ready with params := ⟨5, 0xFFFF, 100, some 3⟩, rx := [0x01, 0x02] }) (·.rx) =
      some [0x01, 0x02, 0xF8] := by decide

/-- R185: exactly at the end of the window (`elapsed = TIMEOUT`, R174). -/
theorem test_cancelSequence :
    after (exec .cancelSequence { awaitingAck [] with t0 := 900 }) (fun s => (s.fsm, s.pendReason, s.ts, s.tx)) =
      some (.cancelling, .toAck, 1000, [0x00, 0x00, 0xFF, 0x00, 0xFF, 0x00]) := by decide

/-- R197: one millisecond earlier the engine has no such step. -/
theorem test_cancelSequence_early :
    after (exec .cancelSequence { awaitingAck [] with t0 := 901 }) (fun s => (s.fsm, s.tx)) =
      some (.awaitingAck, []) := by decide

/-! ## The engine, the clock, reset -/

/-- R171 with R143's example: the stale byte is flushed. -/
theorem test_sending :
    after (engineStep sending) (fun s => (s.fsm, s.rx, s.tx, s.need, s.t0)) =
      some (.awaitingAck, [], [0x00, 0x00, 0xFF, 0x02, 0xFE, 0xD4, 0x02, 0x2A, 0x00], 6, 1000) := by decide

/-- R106: an ACK where a header is expected. -/
theorem test_ack_as_header :
    after (engineStep (awaitingHeader [0x00, 0x00, 0xFF, 0x00, 0xFF, 0x00])) (fun s => (s.reason, s.rx)) =
      some (.peLcsNormal, [0x00]) := by decide

/-- R175: an empty payload goes straight to the trailer. -/
theorem test_empty_payload :
    after (engineStep (awaitingHeader [0x00, 0x00, 0xFF, 0x00, 0x00])) (fun s => (s.fsm, s.need)) =
      some (.awaitingTrailer, 2) := by decide

/-- R246: the clock wraps. -/
theorem test_clock_wraps :
    after (step { ready with clk := 0xFFFFFFFF, agenda := [.tick] }) (·.clk) = some 0 := by decide

/-- R262, R263: reset in an exchange keeps `RX` and sends nothing. -/
theorem test_reset_input :
    after (step { awaitingAck [0x11] with agenda := [.reset] }) (fun s => (s.fsm, s.timeout, s.rx, s.tx)) =
      some (.idle, 100, [0x11], []) := by decide

/-- R263: a reset inside the write of the command frame leaves part of it on `TX`. -/
theorem test_reset_in_frame :
    after (step { sending with agenda := [.resetInWrite 4] }) (fun s => (s.fsm, s.cmd, s.rx, s.tx)) =
      some (.idle, [], [], [0x00, 0x00, 0xFF, 0x02]) := by decide

/-- `RESP` after reset is in canonical form. -/
theorem test_reset_memory : Memory.wf State.reset.resp = true := by decide

/-! ## The first instruction after reset -/

/-- R125: the status word after reset is `0x00000000`. -/
theorem test_fetch_from_reset :
    after (step (State.reset.withFetchWord 8 0x04)) (·.replies) = some [⟨.getStatus, .u32 0⟩] := by decide

/-! ## Witnesses: for each statement with hypotheses, a state and operands that meet all of them -/

/-- The invariant of a block with nothing held, from its decidable parts. -/
theorem inv_of_parts {s : State} (h1 : Memory.wf s.resp = true) (h2 : s.cmd.length ≤ payloadMax)
    (h3 : s.maxLen.toNat ≤ respBufCap) (h4 : OutcomeAgrees s.fsm s.kind s.reason) (h5 : ReadAgrees s)
    (h6 : s.fsm = .cancelling → s.pendReason.kind? = some .timeout) (h7 : s.fsm = .awaitingPayload → s.cnt = 0)
    (h8 : s.fsm = .awaitingTrailer → RespWritten s s.declLen.toNat) (h9 : s.kind = .none) (h10 : s.held = []) : Inv s where
  resp_wf := h1
  cmd_fits := h2
  maxLen_fits := h3
  outcome := h4
  read := h5
  pending := h6
  payload := fun h j hj => by rw [h7 h] at hj; simp at hj
  trailer := h8
  success := fun h => by rw [h9] at h; cases h
  held_busy := fun h => absurd h10 h
  held_kind := fun p hp => by rw [h10] at hp; cases hp

theorem inv_ready : Inv ready :=
  inv_of_parts (by decide) (by decide) (by decide) ⟨rfl, rfl⟩ trivial (by decide) (by decide) (by decide) rfl rfl

theorem inv_sending : Inv sending :=
  inv_of_parts (by decide) (by decide) (by decide) ⟨rfl, rfl⟩ trivial (by decide) (by decide) (by decide) rfl rfl

theorem inv_cancelling : Inv cancelling :=
  inv_of_parts (by decide) (by decide) (by decide) ⟨rfl, rfl⟩ trivial (by decide) (by decide) (by decide) rfl rfl

theorem inv_awaitingAck (rx : List Byte) : Inv (awaitingAck rx) :=
  inv_of_parts (s := awaitingAck rx) (by decide : Memory.wf ready.resp = true) (Nat.zero_le _) (by decide : 2 ≤ respBufCap)
    ⟨rfl, rfl⟩ ⟨rfl, rfl, (by decide : (0 : U16) < 6)⟩ nofun nofun nofun rfl rfl

theorem inv_awaitingHeader (rx : List Byte) : Inv (awaitingHeader rx) :=
  inv_of_parts (s := awaitingHeader rx) (by decide : Memory.wf ready.resp = true) (Nat.zero_le _)
    (by decide : 2 ≤ respBufCap) ⟨rfl, rfl⟩ ⟨rfl, rfl, (by decide : (0 : U16) < 5)⟩ nofun nofun nofun rfl rfl

theorem inv_awaitingLength (rx : List Byte) : Inv (awaitingLength rx) :=
  inv_of_parts (s := awaitingLength rx) (by decide : Memory.wf ready.resp = true) (Nat.zero_le _)
    (by decide : 2 ≤ respBufCap) ⟨rfl, rfl⟩ ⟨rfl, rfl, (by decide : (0 : U16) < 3), rfl⟩ nofun nofun nofun rfl rfl

theorem inv_awaitingPayload (rx : List Byte) : Inv (awaitingPayload rx) :=
  inv_of_parts (s := awaitingPayload rx) (by decide : Memory.wf ready.resp = true) (Nat.zero_le _)
    (by decide : 2 ≤ respBufCap) ⟨rfl, rfl⟩ ⟨rfl, rfl, (by decide : (0 : U16) < 2), (by decide : (2 : U16) ≤ 2)⟩
    nofun (fun _ => rfl) nofun rfl rfl

theorem inv_awaitingTrailer (rx : List Byte) : Inv (awaitingTrailer rx) :=
  inv_of_parts (s := awaitingTrailer rx) (by decide : Memory.wf ready.resp = true) (Nat.zero_le _)
    (by decide : 2 ≤ respBufCap) ⟨rfl, rfl⟩ ⟨rfl, rfl, (by decide : (0 : U16) < 2), (by decide : (2 : U16) ≤ 2)⟩
    nofun nofun (fun _ => (by decide : RespWritten ready 2)) rfl rfl

/-! ### Encoding -/

/-- Boundary operands: `FF 01` is no marker, and a command at its longest. -/
theorem witness_DecodeOfEncodeIsTheInstruction : (Instr.frameNormalHeader 0xFF 0x01).wellFormed = true ∧
    ∀ n, n = 65535 → (Instr.exchange (List.replicate n 0) 265).wellFormed = true :=
  ⟨by decide, fun n h => decide_eq_true (by rw [List.length_replicate, h]; decide)⟩

theorem witness_DecodedPacketIsItsEncoding : decode (.received [0xF8, 0x00]) = .ok (.frameTrailer 0xF8) := by decide

/-- Both ends of every range. -/
theorem witness_UndefinedOperationCodesAreRefused : ∀ op ∈ ([0x00, 0x07, 0x0F, 0x15, 0xFF] : List Byte),
    op = 0x00 ∨ (0x07 ≤ op ∧ op ≤ 0x0F) ∨ 0x15 ≤ op := by decide

theorem witness_StepRunsTheScheduledInstruction : (Instr.readResp 264).wellFormed = true := by decide

theorem witness_FetchedTableWordIsWhatRuns : decodeTableWord 16 0xF800 = some (.frameTrailer 0xF8) := by decide

/-! ### Codec -/

theorem witness_ChecksumCatchesASingleByteCorruption : (0x00 : Byte) ≠ 0xFF := by decide

/-- The boundary of R97, on either side. -/
theorem witness_EncodedFrameLayout : ∀ n, n = 255 ∨ n = 256 →
    (List.replicate n (0 : Byte)).length ≤ payloadMax ∧
      ((List.replicate n (0 : Byte)).length ≤ 255 ∨ 256 ≤ (List.replicate n (0 : Byte)).length) := by
  intro n h
  rw [List.length_replicate]
  unfold payloadMax
  omega

/-- The capacity is exactly the payload's length. -/
theorem witness_FrameRoundTrip : [0xD5, 0x33].length ≤ payloadMax ∧ [0xD5, 0x33].length ≤ (2 : U16).toNat := by decide

theorem witness_NoEncodedFrameIsAnAck : ([] : List Byte).length ≤ payloadMax := by decide

/-! ### Configuration and status -/

/-- The one hypothesis of the statements about a ready block: `SetTimeoutWritesTheTimeout`, `StatusReadsAnswerTheRegisters`,
`TimeoutX2SaturatesTheDouble`, `HiddenRegistersAreUnobservable`. -/
theorem witness_ready : ready.fsm.busy = false := by decide

theorem witness_ReadRespAnswersTheByte : ready.fsm.busy = false ∧ (264 : U16).toNat < 265 ∧
    Memory.read? ready.resp (1 : U16).toNat = some 0x33 := by decide

theorem witness_IllegalOperandsAreRefused : ready.fsm.busy = false ∧ 265 ≤ (265 : U16).toNat ∧ 265 < (266 : U16).toNat := by
  decide

/-- A legal and an illegal request, held alike. -/
theorem witness_BusyBlockHoldsRequests : (awaitingAck []).fsm.busy = true ∧ (Instr.getStatus).needsReady = true ∧
    (Instr.readResp 265).needsReady = true := by decide

/-- A step that stays busy, and one that ends the exchange. -/
theorem witness_EngineStepLiftsTheHold :
    after (engineStep sending) (·.fsm.busy) = some true ∧
    after (engineStep (awaitingTrailer [0xF8, 0x00])) (·.fsm.busy) = some false := by decide

/-! ### Exchange -/

theorem witness_ExchangeIsAccepted : ready.fsm.busy = false ∧ (265 : U16).toNat ≤ 265 := by decide

theorem witness_SendingStepSendsTheCommandFrame : sending.fsm = .sending := by decide

/-- Five of six ACK bytes, in the last open millisecond of the window. -/
def shortAck : State := { awaitingAck [0x00, 0x00, 0xFF, 0x00, 0xFF] with t0 := 901 }

theorem witness_ShortPollKeepsReading : Inv shortAck ∧ shortAck.fsm.timeoutReason?.isSome = true ∧
    ¬ blockBuffered shortAck ∧ windowExpired shortAck = false :=
  ⟨inv_of_parts (by decide) (by decide) (by decide) ⟨rfl, rfl⟩ ⟨rfl, rfl, (by decide : (0 : U16) < 6)⟩ (by decide)
    (by decide) (by decide) rfl rfl,
   by decide, by unfold blockBuffered; decide, by decide⟩

/-- One payload byte short, exactly at the end of the window. -/
def latePayload : State := { awaitingPayload [0xD5] with t0 := 900 }

theorem witness_ExpiredPollEntersTheCancel : Inv latePayload ∧ latePayload.fsm.timeoutReason? = some .toPayload ∧
    ¬ blockBuffered latePayload ∧ windowExpired latePayload = true :=
  ⟨inv_of_parts (by decide) (by decide) (by decide) ⟨rfl, rfl⟩
    ⟨rfl, rfl, (by decide : (0 : U16) < 2), (by decide : (2 : U16) ≤ 2)⟩ (by decide) (fun _ => rfl) (by decide) rfl rfl,
   by decide, by unfold blockBuffered; decide, by decide⟩

/-- The exact number of trailer bytes, at the end of the window. -/
def lateTrailer : State := { awaitingTrailer [0xF8, 0x00] with t0 := 900 }

theorem witness_BytesComeBeforeTheClock : Inv lateTrailer ∧ lateTrailer.fsm.timeoutReason?.isSome = true ∧
    blockBuffered lateTrailer ∧ windowExpired lateTrailer = true :=
  ⟨inv_of_parts (by decide) (by decide) (by decide) ⟨rfl, rfl⟩
    ⟨rfl, rfl, (by decide : (0 : U16) < 2), (by decide : (2 : U16) ≤ 2)⟩ (by decide) (by decide)
    (fun _ => (by decide : RespWritten ready 2)) rfl rfl,
   by decide, by unfold blockBuffered; decide, by decide⟩

/-- `TIMEOUT = 0`, with no byte and with all of them. -/
theorem witness_ZeroTimeoutDecidesAtThePoll : ∀ rx ∈ ([[], [0xF8, 0x00]] : List (List Byte)),
    Inv { awaitingTrailer rx with timeout := 0 } ∧
    (awaitingTrailer rx).fsm.timeoutReason?.isSome = true :=
  fun rx _ => ⟨inv_of_parts (s := { awaitingTrailer rx with timeout := 0 }) (by decide : Memory.wf ready.resp = true)
    (Nat.zero_le _) (by decide : 2 ≤ respBufCap) ⟨rfl, rfl⟩
    ⟨rfl, rfl, (by decide : (0 : U16) < 2), (by decide : (2 : U16) ≤ 2)⟩ nofun nofun
    (fun _ => (by decide : RespWritten ready 2)) rfl rfl, rfl⟩

/-- The pattern, and the pattern with its last bit flipped. -/
theorem witness_AckCheckVerdict : ∀ b ∈ ([0x00, 0x01] : List Byte),
    Inv (awaitingAck [0x00, 0x00, 0xFF, 0x00, 0xFF, b]) ∧
    (awaitingAck [0x00, 0x00, 0xFF, 0x00, 0xFF, b]).fsm = .awaitingAck ∧
    blockBuffered (awaitingAck [0x00, 0x00, 0xFF, 0x00, 0xFF, b]) ∧
    block (awaitingAck [0x00, 0x00, 0xFF, 0x00, 0xFF, b]) = [0x00, 0x00, 0xFF, 0x00, 0xFF, b] :=
  fun _ _ => ⟨inv_awaitingAck _, rfl, Nat.le_refl 6, rfl⟩

/-- Any five header bytes are a block of the header read. -/
theorem witness_HeaderVerdict (a b c d e : Byte) : Inv (awaitingHeader [a, b, c, d, e]) ∧
    (awaitingHeader [a, b, c, d, e]).fsm = .awaitingResponseHeader ∧ blockBuffered (awaitingHeader [a, b, c, d, e]) ∧
    block (awaitingHeader [a, b, c, d, e]) = [a, b, c, d, e] :=
  ⟨inv_awaitingHeader _, rfl, Nat.le_refl 5, rfl⟩

/-- The six clauses of `HeaderVerdict`, with `MAXLEN = 2`: a preamble off by one, the marker, a bad LCS beside the marker, a
length of 3, of 2 and of 0. -/
theorem witness_HeaderVerdict_clauses :
    [0x00, 0x00, 0xFE] ≠ [(0x00 : Byte), 0x00, 0xFF] ∧
    ((0xFF : Byte).toNat + (0xFF : Byte).toNat) % 256 ≠ 0 ∧
    (¬ ((0xFF : Byte) = 0xFF ∧ (0x00 : Byte) = 0xFF) ∧ ((0xFF : Byte).toNat + (0x00 : Byte).toNat) % 256 ≠ 0) ∧
    (((0x03 : Byte).toNat + (0xFD : Byte).toNat) % 256 = 0 ∧ (awaitingHeader []).maxLen.toNat < (0x03 : Byte).toNat) ∧
    (((0x02 : Byte).toNat + (0xFE : Byte).toNat) % 256 = 0 ∧ 0 < (0x02 : Byte).toNat ∧
      (0x02 : Byte).toNat ≤ (awaitingHeader []).maxLen.toNat) ∧
    (((0x00 : Byte).toNat + (0x00 : Byte).toNat) % 256 = 0 ∧ (0x00 : Byte).toNat = 0) := by decide

/-- Any three bytes are a block of the extended length read. -/
theorem witness_ExtendedLengthVerdict (h l c : Byte) : Inv (awaitingLength [h, l, c]) ∧
    (awaitingLength [h, l, c]).fsm = .awaitingResponseLength ∧ blockBuffered (awaitingLength [h, l, c]) ∧
    block (awaitingLength [h, l, c]) = [h, l, c] :=
  ⟨inv_awaitingLength _, rfl, Nat.le_refl 3, rfl⟩

/-- The four clauses of `ExtendedLengthVerdict`, with `MAXLEN = 2`: a bad LCS, a length of 3, of 2 and of 0. -/
theorem witness_ExtendedLengthVerdict_clauses :
    ((0x00 : Byte).toNat + (0x02 : Byte).toNat + (0xFF : Byte).toNat) % 256 ≠ 0 ∧
    (((0x00 : Byte).toNat + (0x03 : Byte).toNat + (0xFD : Byte).toNat) % 256 = 0 ∧ (awaitingLength []).maxLen < (3 : U16)) ∧
    (((0x00 : Byte).toNat + (0x02 : Byte).toNat + (0xFE : Byte).toNat) % 256 = 0 ∧ (0 : U16) < 2 ∧
      (2 : U16) ≤ (awaitingLength []).maxLen) ∧
    ((0x00 : Byte).toNat + (0x00 : Byte).toNat + (0x00 : Byte).toNat) % 256 = 0 := by decide

/-- The payload and one byte more, which stays. -/
theorem witness_CompletePayloadIsInResp : Inv (awaitingPayload [0xD5, 0x33, 0xF8]) ∧
    (awaitingPayload [0xD5, 0x33, 0xF8]).fsm = .awaitingPayload ∧ blockBuffered (awaitingPayload [0xD5, 0x33, 0xF8]) :=
  ⟨inv_awaitingPayload _, rfl, by unfold blockBuffered; decide⟩

/-- Any two bytes are a block of the trailer read. -/
theorem witness_TrailerVerdict (d p : Byte) : Inv (awaitingTrailer [d, p]) ∧
    (awaitingTrailer [d, p]).fsm = .awaitingTrailer ∧ blockBuffered (awaitingTrailer [d, p]) ∧
    block (awaitingTrailer [d, p]) = [d, p] :=
  ⟨inv_awaitingTrailer _, rfl, Nat.le_refl 2, rfl⟩

/-- The three clauses of `TrailerVerdict`: the payload is `D5 33`, its checksum `F8`. -/
theorem witness_TrailerVerdict_clauses :
    (0xF9 : Byte) ≠ checksum (respBytes (awaitingTrailer []) (awaitingTrailer []).declLen.toNat) ∧
    (0xF8 : Byte) = checksum (respBytes (awaitingTrailer []) (awaitingTrailer []).declLen.toNat) ∧
    (0x01 : Byte) ≠ 0x00 := by decide

/-- Exactly at the end of the window. -/
theorem witness_CancelSequenceEntersTheCancel :
    (awaitingHeader []).fsm.timeoutReason? = some .toHeader ∧ (awaitingHeader []).rx = [] ∧
    (awaitingHeader []).cnt < (awaitingHeader []).need ∧ (awaitingHeader []).timeout ≤ (awaitingHeader []).clk - (900 : U32) := by
  decide

/-- Each of the four reasons: no block read, a byte buffered, a complete block, an open window. -/
theorem witness_CancelSequenceOtherwiseDoesNothing :
    ready.fsm.timeoutReason? = none ∧ (awaitingAck [0x00]).rx ≠ [] ∧
    { awaitingAck [] with cnt := 6 }.need ≤ { awaitingAck [] with cnt := 6 }.cnt ∧
    (awaitingAck []).clk - (901 : U32) < (awaitingAck []).timeout := by decide

/-- In the last millisecond of the sleep, and at its end. -/
theorem witness_CancelSleepsThenFlushesAndFails : cancelling.fsm = .cancelling ∧
    (cancelling.clk - cancelling.ts).toNat < cancelling.params.cancelSettleMs ∧
    cancelling.params.cancelSettleMs ≤ (cancelling.clk - (995 : U32)).toNat := by decide

theorem witness_ProtocolErrorNeverCancels : Inv (awaitingAck [0x01, 0x00, 0xFF, 0x00, 0xFF, 0x00, 0x00]) ∧
    after (engineStep (awaitingAck [0x01, 0x00, 0xFF, 0x00, 0xFF, 0x00, 0x00])) (fun t => (t.fsm, t.kind)) =
      some (.failed, .protocolError) ∧
    (awaitingAck [0x01, 0x00, 0xFF, 0x00, 0xFF, 0x00, 0x00]).fsm ≠ .failed :=
  ⟨inv_awaitingAck _, by decide, by decide⟩

/-- A reading engine with nothing to take, and a cancelling one asleep. -/
theorem witness_DisabledEngineStepChangesNothing :
    (Inv (awaitingAck []) ∧ engineEnabled (awaitingAck []) = false) ∧ (Inv cancelling ∧ engineEnabled cancelling = false) :=
  ⟨⟨inv_awaitingAck _, by decide⟩, inv_cancelling, by decide⟩

/-! ### The remote, whole-machine rules -/

/-- An unbounded queue, and one that is full. -/
theorem witness_RemoteMayDeliverAnyBytes : ready.params.rxDepth = none ∧
    { ready with params := ⟨5, 0xFFFF, 100, some 1⟩, rx := [0x00] }.params.rxDepth = some 1 := by decide

/-- `Inv s` and a next state, for the statements about every step: `EveryStepKeepsTheInvariant`, `NoStepOverrunsABuffer`,
`StateFollowsTheTransitionTable`, `OnlySetTimeoutAndResetWriteTimeout`, `ResponseRegistersAreWrittenOnlyByTheRead`,
`OnlyFramesAndCancelsAreSent`. -/
theorem witness_step : Inv (awaitingPayload [0xD5, 0x33]) ∧
    after (step (awaitingPayload [0xD5, 0x33])) (·.fsm) = some .awaitingTrailer ∧
    ¬ ResetIsNext (awaitingPayload [0xD5, 0x33]) :=
  ⟨inv_awaitingPayload _, by decide, nofun⟩

/-- The three clauses of `ResetInputKeepsTheLink` on a reset inside a write: the frame's write, a read that times out two bytes
short, and a state whose engine writes nothing. -/
theorem witness_ResetInputKeepsTheLink_clauses :
    sending.fsm = .sending ∧ stepTimesOut { awaitingHeader [0x00, 0x00, 0xFF] with t0 := 900 } = true ∧
    (cancelling.fsm ≠ .sending ∧ stepTimesOut cancelling = false) := by decide

/-- `n` steps, each from a busy state, and the bytes the engine takes in them. -/
def trace : Nat → State → Option (List Byte × State)
  | 0, s => some ([], s)
  | n + 1, s =>
    match trace n s with
    | some (b, t) => if t.fsm.busy then (after (step t) fun u => (b ++ nextTakes t, u)) else none
    | none => none

/-- What `trace` computes is in flight. -/
theorem trace_inFlight {s : State} : ∀ (n : Nat) {b : List Byte} {t : State}, trace n s = some (b, t) → InFlight s b t
  | 0, _, _, h => by cases h; exact .start
  | n + 1, b, t, h => by
    unfold trace at h
    split at h
    · rename_i b' t' ht
      split at h
      · rename_i hb
        cases hs : step t' <;> rw [hs] at h <;> cases h
        exact .next (trace_inFlight n ht) hb hs
      · cases h
    · cases h

/-- A trace that ends in given outcome registers. -/
theorem inFlight_of_trace {s : State} {f : FsmState} {k : Kind} {r : Reason} (n : Nat)
    (h : ((trace n s).map fun x => (x.2.fsm, x.2.kind, x.2.reason)) = some (f, k, r)) :
    ∃ b t, InFlight s b t ∧ t.fsm = f ∧ t.kind = k ∧ t.reason = r := by
  obtain ⟨⟨b, t⟩, ht, e⟩ := Option.map_eq_some_iff.1 h
  simp only [Prod.mk.injEq] at e
  exact ⟨b, t, trace_inFlight n ht, e⟩

/-- A header read two bytes in, at the end of its window. -/
def lateHeader : State := { awaitingHeader [0x00, 0x00] with t0 := 900 }

theorem inv_lateHeader : Inv lateHeader :=
  inv_of_parts (by decide) (by decide) (by decide) ⟨rfl, rfl⟩ ⟨rfl, rfl, (by decide : (0 : U16) < 5)⟩ (by decide)
    (by decide) (by decide) rfl rfl

/-- The bytes of a good frame, of a header whose length is over the capacity, of a frame with a bad DCS. -/
def goodFrame : List Byte := [0x00, 0x00, 0xFF, 0x02, 0xFE, 0xD5, 0x33, 0xF8, 0x00]
def longHeader : List Byte := [0x00, 0x00, 0xFF, 0x03, 0xFD]
def badFrame : List Byte := [0x00, 0x00, 0xFF, 0x02, 0xFE, 0xD5, 0x33, 0xF9, 0x00]

/-- From the header on: success, a protocol error, a timeout. -/
theorem witness_EngineVerdictIsDecodeFrame :
    (Inv (awaitingHeader goodFrame) ∧ (awaitingHeader goodFrame).cnt = 0 ∧
      ∃ b t, InFlight (awaitingHeader goodFrame) b t ∧ t.fsm = .done ∧ t.kind = .ok ∧ t.reason = .none) ∧
    (Inv (awaitingHeader longHeader) ∧ (awaitingHeader longHeader).cnt = 0 ∧
      ∃ b t, InFlight (awaitingHeader longHeader) b t ∧ t.fsm = .failed ∧ t.kind = .protocolError ∧
        t.reason = .peLengthOverCapacity) ∧
    (Inv lateHeader ∧ lateHeader.fsm = .awaitingResponseHeader ∧ lateHeader.cnt = 0 ∧
      ∃ b t, InFlight lateHeader b t ∧ t.fsm = .failed ∧ t.kind = .timeout ∧ t.reason = .toHeader) :=
  ⟨⟨inv_awaitingHeader _, rfl, inFlight_of_trace 3 (by decide)⟩,
   ⟨inv_awaitingHeader _, rfl, inFlight_of_trace 1 (by decide)⟩,
   ⟨inv_lateHeader, rfl, rfl, inFlight_of_trace 7 (by decide)⟩⟩

/-- The sending state that then hears a reply, with `TIMEOUT = 0`: the reads below complete at their polls or time out. -/
def sendingTo (reply : List Byte) : State :=
  { sending with timeout := 0, agenda := [.engine, .packet (.received reply)] }

theorem inv_sendingTo (reply : List Byte) : Inv (sendingTo reply) :=
  inv_of_parts (s := sendingTo reply) (by decide : Memory.wf ready.resp = true) (by decide : 2 ≤ payloadMax)
    (by decide : 2 ≤ respBufCap) ⟨rfl, rfl⟩ trivial nofun nofun nofun rfl rfl

/-- From the sending step on, for `BytesSentByOneExchange`, `BytesTakenByOneExchange` and `RespAfterAFailedExchange`: success,
a protocol error of the ACK, of the capacity and of the DCS, and a timeout in the payload after one byte. -/
theorem witness_exchange_from_sending :
    (∀ reply, Inv (sendingTo reply) ∧ (sendingTo reply).fsm = .sending) ∧
    (∃ b t, InFlight (sendingTo (ackPattern ++ goodFrame)) b t ∧ t.fsm = .done ∧ t.kind = .ok ∧ t.reason = .none) ∧
    (∃ b t, InFlight (sendingTo [0x01, 0x00, 0xFF, 0x00, 0xFF, 0x00]) b t ∧
      t.fsm = .failed ∧ t.kind = .protocolError ∧ t.reason = .peAckMismatch) ∧
    (∃ b t, InFlight (sendingTo (ackPattern ++ longHeader)) b t ∧
      t.fsm = .failed ∧ t.kind = .protocolError ∧ t.reason = .peLengthOverCapacity) ∧
    (∃ b t, InFlight (sendingTo (ackPattern ++ badFrame)) b t ∧
      t.fsm = .failed ∧ t.kind = .protocolError ∧ t.reason = .peDcs) ∧
    (∃ b t, InFlight (sendingTo (ackPattern ++ goodFrame.take 6)) b t ∧
      t.fsm = .failed ∧ t.kind = .timeout ∧ t.reason = .toPayload) :=
  ⟨fun reply => ⟨inv_sendingTo reply, rfl⟩, inFlight_of_trace 6 (by decide), inFlight_of_trace 3 (by decide),
   inFlight_of_trace 4 (by decide), inFlight_of_trace 6 (by decide), inFlight_of_trace 11 (by decide)⟩

/-- The reply's payload at exactly the capacity. -/
def goodReply : State :=
  { ready with
    agenda := [.packet (encode (.exchange [0xD4, 0x02] 2)), .engine,
      .packet (.received (ackPattern ++ encodeFrame [0xD5, 0x33]))] }

theorem witness_GoodReplyMakesTheExchangeSucceed :
    Inv goodReply ∧ goodReply.fsm.busy = false ∧ goodReply.params.rxDepth = none ∧
    [0xD4, 0x02].length ≤ payloadMax ∧ [0xD5, 0x33].length ≤ (2 : U16).toNat ∧ (2 : U16).toNat ≤ 265 :=
  ⟨inv_of_parts (by decide) (by decide) (by decide) ⟨rfl, rfl⟩ trivial (by decide) (by decide) (by decide) rfl rfl,
   by decide, by decide, by decide, by decide, by decide⟩

/-- A silent remote. -/
theorem witness_EveryExchangeEnds : Inv (awaitingAck []) ∧ (awaitingAck []).params.cancelSettleMs < 2 ^ 32 ∧
    ∀ t ∈ (awaitingAck []).agenda, t.isQuiet = true :=
  ⟨inv_awaitingAck _, by decide, by decide⟩

theorem witness_OnlyClockDifferencesMatter : ¬ ResetIsNext (awaitingAck []) := nofun

end Sys2Proof.Tests
end

section
/-! The scheduled instruction runs (spec/00_scope.md R3): decoding inverts encoding, so fetching an encoded instruction is
running it. -/

namespace Sys2Proof

/-- A normal header whose two bytes are not the extended marker is read as one (R92, R98). -/
theorem decodeReceived_normalHeader {len lcs : Byte} (h : ¬(len = markerByte ∧ lcs = markerByte)) :
    decodeReceived (preamble ++ [len, lcs]) = .ok (.frameNormalHeader len lcs) :=
  if_pos ⟨rfl, h⟩

/-- A well-formed normal header is not the extended marker (R98). -/
theorem not_marker_of_wellFormed {len lcs : Byte} (h : (Instr.frameNormalHeader len lcs).wellFormed = true) :
    ¬(len = markerByte ∧ lcs = markerByte) := by
  rintro ⟨rfl, rfl⟩
  exact absurd h (by decide)

/-- Decoding inverts encoding. The fixed formats and the operand forms without a bound compute; a byte sequence needs its
length bound (R111), a normal header that it is not the extended marker (R98). -/
theorem decode_encode {i : Instr} (h : i.wellFormed = true) : decode (encode i) = .ok i := by
  cases i with
  | exchange cmd maxLen => exact accept_of_wellFormed h
  | checksum s => exact accept_of_wellFormed h
  | encodeFrame p => exact accept_of_wellFormed h
  | isAck s => exact accept_of_wellFormed h
  | decodeFrame s cap => exact accept_of_wellFormed h
  | frameNormalHeader len lcs => exact decodeReceived_normalHeader (not_marker_of_wellFormed h)
  | setTimeout | getTimeout | getStatus | getRespLen | readResp | timeoutX2 => rfl
  | frameAck | cancelSequence | frameExtHeader | frameTrailer => rfl

namespace Machine

/-- Fetching a packet that decodes is running its instruction. -/
theorem runPacket_of_decode {p : Packet} {i : Instr} (h : decode p = .ok i) (s : State) : runPacket p s = exec i s := by
  simp only [runPacket, h]

/-- Settles O5: the step takes the scheduled turn, and its packet decodes to the instruction it encodes. -/
theorem stepRunsTheScheduledInstruction : Obligations.StepRunsTheScheduledInstruction := by
  intro s i rest hwf
  calc step { s with agenda := .packet (encode i) :: rest }
    _ = runTurn (.packet (encode i)) { s with agenda := rest } := step_turn _ rfl
    _ = exec i { s with agenda := rest } := runPacket_of_decode (decode_encode hwf) _

end Machine

end Sys2Proof
end

section
/-! The decoder answers encodings only (spec/30_encoding.md R108 to R111), and a table word that decodes is what runs. -/

namespace Sys2Proof

/-- A request that decodes is the encoding of the instruction it decodes to, whose operands an encoding can express. -/
theorem decodeRequest_eq_ok {op : Byte} {os : List Operand} {i : Instr} (h : decodeRequest op os = .ok i) :
    encode i = .request op os ∧ i.wellFormed = true := by
  unfold decodeRequest at h
  split at h
  case h_1 => cases h
  all_goals rw [← HostOp.code_of_ofCode ‹HostOp.ofCode op = _›]
  case h_2 => obtain ⟨v, rfl, rfl⟩ := formU32_eq_ok h; exact ⟨rfl, rfl⟩
  case h_7 => obtain ⟨v, rfl, rfl⟩ := formU16_eq_ok h; exact ⟨rfl, rfl⟩
  case h_8 | h_9 | h_10 => obtain ⟨s, rfl, rfl, hw⟩ := formBytes_eq_ok h; exact ⟨rfl, hw⟩
  case h_4 | h_11 => obtain ⟨s, v, rfl, rfl, hw⟩ := formBytesU16_eq_ok h; exact ⟨rfl, hw⟩
  all_goals obtain ⟨rfl, rfl⟩ := formNone_eq_ok h; exact ⟨rfl, rfl⟩

/-- Every frame unit the decoder reads is well-formed: a normal header is not the extended marker (R98). -/
theorem wellFormed_of_decodeReceived {b : List Byte} {i : Instr} (h : decodeReceived b = .ok i) :
    i.wellFormed = true := by
  unfold decodeReceived at h
  split at h
  case h_5 => cases h
  case h_2 len lcs =>
    split at h
    case isTrue hunit =>
      cases h
      simpa [Instr.wellFormed, markerByte, or_iff_not_imp_left] using hunit.2
    case isFalse => cases h
  all_goals (split at h <;> cases h; rfl)

/-- A packet that decodes is the encoding of the well-formed instruction it decodes to, on each of the three channels. -/
theorem decode_eq_ok {p : Packet} {i : Instr} (h : decode p = .ok i) : encode i = p ∧ i.wellFormed = true := by
  cases p with
  | request op os => exact decodeRequest_eq_ok h
  | received b => exact ⟨decodeReceived_ok h, wellFormed_of_decodeReceived h⟩
  | sent b =>
    simp only [decode, decodeSent] at h
    split at h <;> cases h
    subst_vars
    exact ⟨rfl, rfl⟩

/-- What `decodeTableWord` answers is what the decoder answers for the word's packet. -/
theorem decode_of_decodeTableWord {nbits w : Nat} {i : Instr} (h : decodeTableWord nbits w = some i) :
    decode (tablePacket nbits w) = .ok i := by
  unfold decodeTableWord at h
  cases hd : decode (tablePacket nbits w) <;> rw [hd] at h <;> cases h
  rfl

namespace Machine

/-- Settles O6: `withFetchWord` puts the word's packet first on the agenda, and its turn runs what it decodes to. -/
theorem fetchedTableWordIsWhatRuns : Obligations.FetchedTableWordIsWhatRuns := by
  intro s nbits w i h
  calc step (s.withFetchWord nbits w)
    _ = runTurn (.packet (tablePacket nbits w)) s := step_turn _ rfl
    _ = exec i s := runPacket_of_decode (decode_of_decodeTableWord h) s

end Machine

end Sys2Proof
end

section
/-! The block's registers as the host sees them: the hold while it is busy (spec/40_linkconfig.md R129), the write of `TIMEOUT`
(R120), and the layout of the status word (spec/10_state.md R35). -/

namespace Sys2Proof.Machine

/-- Settles O17: a ready block goes on to the write of `TIMEOUT` and the completion marker. -/
theorem setTimeoutWritesTheTimeout : Obligations.SetTimeoutWritesTheTimeout :=
  fun _ _ hready => whenReady_ready hready

/-- Settles O23: each of the seven operations that need a ready block begins with the readiness check, before any check of
its operands. -/
theorem busyBlockHoldsRequests : Obligations.BusyBlockHoldsRequests := by
  intro s i hbusy hneeds
  cases i with
  | setTimeout | getTimeout | exchange | getStatus | getRespLen | readResp | timeoutX2 => exact whenReady_busy hbusy
  | checksum | encodeFrame | isAck | decodeFrame => cases hneeds
  | frameAck | cancelSequence | frameExtHeader | frameNormalHeader | frameTrailer => cases hneeds

/-- Bit `i` of the status word is a bit of `STATE` from 16 on, of `REASON` from 8 on, and of `KIND`; no field has a bit outside
its width, so the three do not meet. -/
theorem statusWord_getLsbD (s : State) (i : Nat) :
    (statusWord s).getLsbD i =
      ((!decide (i < 16) && s.fsm.code.getLsbD (i - 16)) || (!decide (i < 8) && s.reason.code.getLsbD (i - 8)) ||
        s.kind.code.getLsbD i) := by
  by_cases hi : i < 32
  · simp [statusWord, hi]
  · have hf : s.fsm.code.getLsbD (i - 16) = false := BitVec.getLsbD_of_ge _ _ (by omega)
    have hr : s.reason.code.getLsbD (i - 8) = false := BitVec.getLsbD_of_ge _ _ (by omega)
    have hk : s.kind.code.getLsbD i = false := BitVec.getLsbD_of_ge _ _ (by omega)
    simp [hf, hr, hk, BitVec.getLsbD_of_ge _ i (Nat.not_lt.1 hi)]

/-- A slice of a word, bit by bit. -/
theorem extractLsb'_eq_of_getLsbD {n len start : Nat} {w : BitVec n} {field : BitVec len}
    (h : ∀ i, i < len → w.getLsbD (start + i) = field.getLsbD i) : w.extractLsb' start len = field :=
  BitVec.eq_of_getLsbD_eq fun i hi => by rw [BitVec.getLsbD_extractLsb', decide_eq_true hi, Bool.true_and, h i hi]

/-- Settles O19: each slice holds one field's bits, because the other fields end below it or begin above it. -/
theorem statusWordLayout : Obligations.StatusWordLayout := by
  intro s
  have hf : ∀ i, 4 ≤ i → s.fsm.code.getLsbD i = false := BitVec.getLsbD_of_ge _
  have hr : ∀ i, 8 ≤ i → s.reason.code.getLsbD i = false := BitVec.getLsbD_of_ge _
  have hk : ∀ i, 2 ≤ i → s.kind.code.getLsbD i = false := BitVec.getLsbD_of_ge _
  refine ⟨extractLsb'_eq_of_getLsbD fun i hi => ?_, extractLsb'_eq_of_getLsbD fun i hi => ?_,
    extractLsb'_eq_of_getLsbD fun i hi => ?_, extractLsb'_eq_of_getLsbD fun i hi => ?_,
    extractLsb'_eq_of_getLsbD fun i hi => ?_, rfl, rfl, rfl, rfl⟩ <;> rw [statusWord_getLsbD]
  · have h16 : i < 16 := by omega
    have h8 : i < 8 := by omega
    simp [h16, h8]
  · have h16 : 2 + i < 16 := by omega
    have h8 : 2 + i < 8 := by omega
    simp [h16, h8]
  · have h16 : 8 + i < 16 := by omega
    simp [h16, hk (8 + i) (by omega)]
  · simp [hk (16 + i) (by omega), hr (16 + i - 8) (by omega)]
  · simp [hk (20 + i) (by omega), hr (20 + i - 8) (by omega), hf (20 + i - 16) (by omega)]

end Sys2Proof.Machine
end

section
/-! What the engine can do, said once (spec/42_link_engine.md): a poll and an engine step in any state, the verdict on a
complete block, and what the clock check leaves alone. -/

namespace Sys2Proof.Machine

/-! ## An engine step off the invariant -/

/-- One byte stored, then the rest, is the whole run stored. -/
theorem stored_of_storeByte {s u : State} {d : Dst} {j : Nat} {x : Byte} (h : storeByte s d j x = some u)
    (b : List Byte) : stored u d (j + 1) b = stored s d j (x :: b) := by
  cases d <;> simp only [storeByte, Option.ite_none_right_eq_some, Option.some.injEq] at h <;>
    obtain ⟨-, rfl⟩ := h <;> rfl

/-- Bytes stored without a fault stand where `stored` puts them. -/
theorem storeBytes_next {s t : State} {d : Dst} {j : Nat} {b : List Byte} (h : storeBytes s d j b = .next t) :
    t = stored s d j b := by
  induction b generalizing s j with
  | nil => cases h; cases d <;> rfl
  | cons x rest ih =>
    rw [storeBytes] at h
    cases hx : storeByte s d j x with
    | some u => rw [hx] at h; rw [ih h, stored_of_storeByte hx]
    | none => rw [hx] at h; cases h

/-- A poll that answers a next state went on to the checks, whatever the state it began in. -/
theorem poll_next {s t : State} (h : poll s = .next t) : t = afterTake (afterBytes s) := by
  simp only [poll] at h
  cases hst : storeBytes (rxTake s (takeCount s)) s.dst s.cnt.toNat (s.rx.take (takeCount s)) with
  | next u => rw [hst] at h; cases h; rw [storeBytes_next hst]; rfl
  | fault r => rw [hst] at h; cases h
  | refused r => rw [hst] at h; cases h

/-- What an engine step can do in any state, of the invariant or not: nothing, the sending step, a poll, the end of a cancel. -/
theorem engineStep_cases {s t : State} (h : engineStep s = .next t) :
    t = s ∨ (s.fsm = .sending ∧ t = sendCommand s) ∨
    (s.fsm.timeoutReason?.isSome ∧ t = afterTake (afterBytes s)) ∨
    (s.fsm = .cancelling ∧ cancelSettled s = true ∧ t = cancelEnd s) := by
  unfold engineStep at h
  cases hs : s.fsm <;> simp only [hs] at h
  case idle | done | failed => exact .inl (Host.Outcome.next.inj h).symm
  case sending => exact .inr (.inl ⟨rfl, (Host.Outcome.next.inj h).symm⟩)
  case awaitingAck | awaitingResponseHeader | awaitingResponseLength | awaitingPayload | awaitingTrailer =>
    exact .inr (.inr (.inl ⟨rfl, poll_next h⟩))
  case cancelling =>
    split at h
    · exact .inr (.inr (.inr ⟨rfl, ‹_›, (Host.Outcome.next.inj h).symm⟩))
    · exact .inl (Host.Outcome.next.inj h).symm

/-! ## What the clock check leaves alone (R174, R185) -/

/-- The clock check writes `TX`, `TS`, `PEND_REASON` and `STATE` at most. -/
theorem clockCheck_frame (s : State) : clockCheck s =
    { s with tx := (clockCheck s).tx, ts := (clockCheck s).ts, pendReason := (clockCheck s).pendReason,
             fsm := (clockCheck s).fsm } := by
  obtain he | ⟨r, -, -, he⟩ := clockCheck_eq s <;> rw [he]
  rfl

@[simp] theorem clockCheck_timeout (s : State) : (clockCheck s).timeout = s.timeout := by rw [clockCheck_frame]

@[simp] theorem clockCheck_respLen (s : State) : (clockCheck s).respLen = s.respLen := by rw [clockCheck_frame]

@[simp] theorem clockCheck_resp (s : State) : (clockCheck s).resp = s.resp := by rw [clockCheck_frame]

@[simp] theorem clockCheck_held (s : State) : (clockCheck s).held = s.held := by rw [clockCheck_frame]

/-! ## The three ends of the capacity check (R181, R175) -/

theorem capacityCheck_of_over {s : State} (h : s.maxLen < s.declLen) :
    capacityCheck s = fail s .protocolError .peLengthOverCapacity := if_pos h

theorem capacityCheck_of_empty {s : State} (h : s.declLen = 0) :
    capacityCheck s = beginRead s .awaitingTrailer 2 .tb0 := by
  simp [capacityCheck, h, enterTrailer, beginRead]

theorem capacityCheck_of_fits {s : State} (h : s.declLen ≤ s.maxLen) (hpos : 0 < s.declLen) :
    capacityCheck s = beginRead s .awaitingPayload s.declLen .resp0 :=
  (if_neg (BitVec.not_lt.2 h)).trans (if_neg ((BitVec.pos_iff_ne_zero _).1 hpos))

/-! ## The verdict on a complete block -/

/-- What the check of a complete block can make of the state `u` that holds it: one constructor for each end of R176 to R190.
`f` and `len` are the `FORM` and `DECL_LEN` the check has set by then. -/
inductive Verdict (u : State) : State → Prop where
  | protocolError (f : Form) (len : U16) {r : Reason} (hr : r.kind? = some .protocolError) :
      Verdict u (fail { u with form := f, declLen := len } .protocolError r)
  | header (hs : u.fsm = .awaitingAck) : Verdict u (beginRead u .awaitingResponseHeader 5 .hb0)
  | extendedLength (hs : u.fsm = .awaitingResponseHeader) :
      Verdict u (beginRead { u with form := .extended } .awaitingResponseLength 3 .hb5)
  | payload (f : Form) {len : U16} (hpos : 0 < len) (hfits : len ≤ u.maxLen) :
      Verdict u (beginRead { u with form := f, declLen := len } .awaitingPayload len .resp0)
  | noPayload (f : Form) : Verdict u (beginRead { u with form := f, declLen := 0 } .awaitingTrailer 2 .tb0)
  | trailer (hs : u.fsm = .awaitingPayload) : Verdict u (beginRead u .awaitingTrailer 2 .tb0)
  | success (hs : u.fsm = .awaitingTrailer) : Verdict u (succeed u)

/-- A failed check that has set neither `FORM` nor `DECL_LEN`. -/
theorem Verdict.of_protocolError {u : State} {r : Reason} (hr : r.kind? = some .protocolError) :
    Verdict u (Machine.protocolError u r) :=
  .protocolError u.form u.declLen hr

/-- The capacity check of a declared length `len` (R181): too long, none, or a payload to read. -/
theorem Verdict.of_capacityCheck (u : State) (f : Form) (len : U16) :
    Verdict u (capacityCheck { u with form := f, declLen := len }) := by
  by_cases hover : u.maxLen < len
  · rw [capacityCheck_of_over hover]; exact .protocolError f len rfl
  · by_cases hzero : len = 0
    · subst hzero; rw [capacityCheck_of_empty rfl]; exact .noPayload f
    · have hpos : 0 < len := (BitVec.pos_iff_ne_zero _).2 hzero
      have hfits : len ≤ u.maxLen := BitVec.not_lt.1 hover
      rw [capacityCheck_of_fits hfits hpos]; exact .payload f hpos hfits

theorem Verdict.of_ackCheck {u : State} (hs : u.fsm = .awaitingAck) : Verdict u (ackCheck u) := by
  unfold ackCheck
  split
  · exact .header hs
  · exact .of_protocolError rfl

theorem Verdict.of_normalLengthCheck (u : State) : Verdict u (normalLengthCheck { u with form := .normal }) := by
  unfold normalLengthCheck
  split
  · exact .of_capacityCheck u .normal _
  · exact .protocolError .normal u.declLen rfl

theorem Verdict.of_preambleCheck {u : State} (hs : u.fsm = .awaitingResponseHeader) : Verdict u (preambleCheck u) := by
  unfold preambleCheck formSelection
  split
  · split
    · exact .extendedLength hs
    · exact .of_normalLengthCheck u
  · exact .of_protocolError rfl

theorem Verdict.of_extendedLengthCheck (u : State) : Verdict u (extendedLengthCheck u) := by
  unfold extendedLengthCheck
  split
  · exact .of_capacityCheck u u.form _
  · exact .of_protocolError rfl

theorem Verdict.of_trailerCheck {u : State} (hs : u.fsm = .awaitingTrailer) : Verdict u (trailerCheck u) := by
  unfold trailerCheck
  split
  · exact .of_protocolError rfl
  · split
    · exact .of_protocolError rfl
    · exact .success hs

/-- The check rule of a reading state (R175) ends in a verdict. -/
theorem Verdict.of_complete {u : State} (hf : u.fsm.timeoutReason?.isSome) : Verdict u (complete u) := by
  unfold complete
  cases hs : u.fsm with
  | idle | sending | done | failed | cancelling => rw [hs] at hf; cases hf
  | awaitingAck => exact .of_ackCheck hs
  | awaitingResponseHeader => exact .of_preambleCheck hs
  | awaitingResponseLength => exact .of_extendedLengthCheck u
  | awaitingPayload => exact .trailer hs
  | awaitingTrailer => exact .of_trailerCheck hs

/-- Only a success writes `RESP_LEN`, with `DECL_LEN` (R190). -/
theorem Verdict.respLen {u t : State} (hv : Verdict u t) :
    t.respLen = u.respLen ∨ (u.fsm = .awaitingTrailer ∧ t.fsm = .done ∧ t.respLen = u.declLen) := by
  cases hv with
  | protocolError | header | extendedLength | payload | noPayload | trailer => exact .inl rfl
  | success hs => exact .inr ⟨hs, rfl, rfl⟩

end Sys2Proof.Machine
end

section
/-! What a poll leaves of the block read and of `RESP` (spec/42_link_engine.md R173, R182), in a state whose read registers
agree with `STATE`. -/

namespace Sys2Proof.Machine

/-- A reading state is busy (R32). -/
theorem busy_of_reading {f : FsmState} (h : f.timeoutReason?.isSome) : f.busy = true := by
  cases f with
  | idle | sending | done | failed | cancelling => cases h
  | awaitingAck | awaitingResponseHeader | awaitingResponseLength | awaitingPayload | awaitingTrailer => rfl

/-- The length being read, or read before the trailer, is within the capacity (R181). -/
theorem declLen_le_maxLen {s : State} (hr : ReadAgrees s) (hs : s.fsm = .awaitingPayload ∨ s.fsm = .awaitingTrailer) :
    s.declLen ≤ s.maxLen := by
  unfold ReadAgrees at hr
  rcases hs with hs | hs <;> simp only [hs] at hr <;> obtain ⟨-, -, -, hle⟩ := hr <;> exact hle

/-- The payload read is as long as the declared length (R181). -/
theorem need_eq_declLen {s : State} (hr : ReadAgrees s) (hs : s.fsm = .awaitingPayload) : s.need = s.declLen := by
  unfold ReadAgrees at hr
  simp only [hs] at hr
  obtain ⟨-, hneed, -⟩ := hr
  exact hneed

/-- A poll that leaves its block short leaves the block read in order. -/
theorem readAgrees_afterBytes {s : State} (hr : ReadAgrees s) (hf : s.fsm.timeoutReason?.isSome)
    (hb : ¬ blockBuffered s) : ReadAgrees (afterBytes s) := by
  have hlt := cnt_lt_need hr hf
  have hshort : (afterBytes s).cnt < s.need := by
    rw [BitVec.lt_def, afterBytes_cnt_toNat (Nat.le_of_lt hlt), takeCount_of_short hb]
    unfold blockBuffered at hb
    omega
  unfold ReadAgrees at hr ⊢
  simp only [afterBytes_fsm, afterBytes_dst, afterBytes_need, afterBytes_form, afterBytes_declLen, afterBytes_maxLen]
  cases hs : s.fsm <;> simp only [hs] at hr ⊢
  case awaitingAck | awaitingResponseHeader =>
    obtain ⟨hdst, hneed, -⟩ := hr
    exact ⟨hdst, hneed, hshort⟩
  case awaitingResponseLength | awaitingPayload | awaitingTrailer =>
    obtain ⟨hdst, hneed, -, hrest⟩ := hr
    exact ⟨hdst, hneed, hshort, hrest⟩

/-- Outside the payload read a poll leaves `RESP` as it is. -/
theorem afterBytes_resp_of_ne {s : State} (hr : ReadAgrees s) (hf : s.fsm.timeoutReason?.isSome)
    (hs : s.fsm ≠ .awaitingPayload) : (afterBytes s).resp = s.resp := by
  rw [afterBytes_resp, if_neg (mt (dst_resp0_iff hr hf).1 hs)]

/-- In the payload read a poll writes the bytes it takes behind those received before (R182). -/
theorem afterBytes_resp_of_payload {s : State} (hr : ReadAgrees s) (hs : s.fsm = .awaitingPayload) :
    (afterBytes s).resp = writeBytes s.resp s.cnt.toNat (s.rx.take (takeCount s)) := by
  rw [afterBytes_resp, if_pos ((dst_resp0_iff hr (by rw [hs]; rfl)).2 hs)]

/-- A poll writes `RESP` only while the payload is read, and only below `DECL_LEN` (R182). -/
theorem read?_afterBytes {s : State} (hr : ReadAgrees s) (hf : s.fsm.timeoutReason?.isSome) (i : Nat) :
    Memory.read? (afterBytes s).resp i = Memory.read? s.resp i ∨
      (s.fsm = .awaitingPayload ∧ i < s.declLen.toNat) := by
  by_cases hs : s.fsm = .awaitingPayload
  · rw [afterBytes_resp_of_payload hr hs, read?_writeBytes]
    split
    · have hlen : (s.rx.take (takeCount s)).length = takeCount s := by simp [takeCount]
      have htake : takeCount s ≤ s.need.toNat - s.cnt.toNat := Nat.min_le_right _ _
      have hlt := cnt_lt_need hr hf
      rw [← need_eq_declLen hr hs]
      exact .inr ⟨hs, by omega⟩
    · exact .inl rfl
  · exact .inl (by rw [afterBytes_resp_of_ne hr hf hs])

end Sys2Proof.Machine
end

section
/-! The invariant (spec/10_state.md R33 to R44) holds at reset and every step keeps it. An engine step keeps all of it but what
it says of the held requests; the engine's turn restores that by lifting the hold (R129). -/

namespace Sys2Proof.Machine

/-! ## Reset -/

/-- An idle block with outcome, response, command and held requests clear meets the invariant, whatever else it holds. -/
theorem inv_of_cleared {s : State} (hfsm : s.fsm = .idle) (hkind : s.kind = .none) (hreason : s.reason = .none)
    (hresp : s.resp = []) (hcmd : s.cmd = []) (hmax : s.maxLen = 0) (hheld : s.held = []) : Inv s := by
  constructor <;> simp [hfsm, hkind, hreason, hresp, hcmd, hmax, hheld, OutcomeAgrees, ReadAgrees, Memory.wf]

/-- The reset input ends in the invariant from any state. -/
theorem inv_resetInput (s : State) : Inv (resetInput s) := inv_of_cleared rfl rfl rfl rfl rfl rfl rfl

/-- Settles O46: the reset values are the clear ones (R261). -/
theorem invariantAtReset : Obligations.InvariantAtReset := inv_of_cleared rfl rfl rfl rfl rfl rfl rfl

/-! ## What the invariant does not speak of -/

/-- Of the parameters, `TIMEOUT`, the link, the clock, the answers and the schedule the invariant says nothing; of the held
requests it says what the last two hypotheses say. -/
theorem Inv.withHeld {s : State} (h : Inv s) (params : Params) (timeout clk : U32) (tx rx : List Byte)
    (replies : List Reply) (agenda : List Turn) (held : List Packet) (hbusy : held ≠ [] → s.fsm.busy = true)
    (hkind : ∀ p ∈ held, ∃ i, decode p = .ok i ∧ i.needsReady = true) :
    Inv { s with params := params, timeout := timeout, clk := clk, tx := tx, rx := rx, replies := replies,
                 agenda := agenda, held := held } where
  resp_wf := h.resp_wf
  cmd_fits := h.cmd_fits
  maxLen_fits := h.maxLen_fits
  outcome := h.outcome
  read := h.read
  pending := h.pending
  payload := h.payload
  trailer := h.trailer
  success := h.success
  held_busy := hbusy
  held_kind := hkind

/-- The same with the held requests as they are. -/
theorem Inv.outside {s : State} (h : Inv s) (params : Params) (timeout clk : U32) (tx rx : List Byte)
    (replies : List Reply) (agenda : List Turn) :
    Inv { s with params := params, timeout := timeout, clk := clk, tx := tx, rx := rx, replies := replies,
                 agenda := agenda } :=
  h.withHeld params timeout clk tx rx replies agenda s.held h.held_busy h.held_kind

/-- Taking the next turn off the agenda keeps the invariant. -/
theorem Inv.taken {s : State} (h : Inv s) (rest : List Turn) : Inv { s with agenda := rest } := h.outside ..

/-- The invariant but for the held requests. -/
abbrev InvButHeld (s : State) : Prop := Inv { s with held := [] }

theorem Inv.butHeld {s : State} (h : Inv s) : InvButHeld s := h.withHeld _ _ _ _ _ _ _ [] nofun nofun

/-- Lifting the hold restores the whole invariant: a busy block may hold requests, a ready one has none left. -/
theorem InvButHeld.liftHeld {s : State} (h : InvButHeld s)
    (hkind : ∀ p ∈ s.held, ∃ i, decode p = .ok i ∧ i.needsReady = true) : Inv (liftHeld s) := by
  cases hb : s.fsm.busy with
  | true => rw [liftHeld_of_busy s hb]; exact h.withHeld _ _ _ _ _ _ _ s.held (fun _ => hb) hkind
  | false => rw [liftHeld_of_ready s hb]; exact h.outside ..

/-! ## An exchange in flight -/

/-- No outcome stands in the registers while the block is busy (R33, R34). -/
theorem outcomeAgrees_busy {f : FsmState} (h : f.busy = true) (k : Kind) (r : Reason) :
    OutcomeAgrees f k r ↔ k = .none ∧ r = .none := by
  cases f with
  | idle | done | failed => cases h
  | sending | cancelling | awaitingAck | awaitingResponseHeader | awaitingResponseLength => exact Iff.rfl
  | awaitingPayload | awaitingTrailer => exact Iff.rfl

/-- What holds of the registers that outlast a block read, all through an exchange. -/
structure MidExchange (s : State) : Prop where
  resp_wf : Memory.wf s.resp = true
  cmd_fits : s.cmd.length ≤ payloadMax
  maxLen_fits : s.maxLen.toNat ≤ respBufCap
  kind : s.kind = .none
  reason : s.reason = .none

theorem Inv.midExchange {s : State} (h : Inv s) (hb : s.fsm.busy = true) : MidExchange s := by
  obtain ⟨hkind, hreason⟩ := (outcomeAgrees_busy hb s.kind s.reason).1 h.outcome
  exact ⟨h.resp_wf, h.cmd_fits, h.maxLen_fits, hkind, hreason⟩

theorem MidExchange.withLength {s : State} (h : MidExchange s) (f : Form) (len : U16) :
    MidExchange { s with form := f, declLen := len } :=
  ⟨h.resp_wf, h.cmd_fits, h.maxLen_fits, h.kind, h.reason⟩

/-- A poll stores its bytes inside `RESP` (R61), and keeps the rest. -/
theorem MidExchange.afterBytes {s : State} (h : Inv s) (hf : s.fsm.timeoutReason?.isSome) :
    MidExchange (afterBytes s) := by
  have hm := h.midExchange (busy_of_reading hf)
  refine ⟨?_, by simpa using hm.cmd_fits, by simpa using hm.maxLen_fits, by simpa using hm.kind,
    by simpa using hm.reason⟩
  rw [afterBytes_resp]
  split
  · rename_i hdst
    have hlen : (s.rx.take (takeCount s)).length = takeCount s := by simp [takeCount]
    have hfit := takeCount_fits h.maxLen_fits h.read hf
    rw [hdst] at hfit
    exact wf_writeBytes _ hm.resp_wf (by rw [hlen]; exact hfit)
  · exact hm.resp_wf

/-! ## The ends of the engine's checks -/

/-- A block read begins short, with nothing received (R172). -/
theorem MidExchange.beginRead {s : State} (h : MidExchange s) {f : FsmState} {n : U16} {d : Dst}
    (hf : f.timeoutReason?.isSome) (hread : ReadAgrees (beginRead s f n d))
    (htrailer : f = .awaitingTrailer → RespWritten s s.declLen.toNat) : InvButHeld (beginRead s f n d) where
  resp_wf := h.resp_wf
  cmd_fits := h.cmd_fits
  maxLen_fits := h.maxLen_fits
  outcome := (outcomeAgrees_busy (busy_of_reading hf) ..).2 ⟨h.kind, h.reason⟩
  read := hread
  pending := fun hc => by cases hc; cases hf
  payload := fun _ => nofun
  trailer := htrailer
  success := fun hk => by cases h.kind.symm.trans hk
  held_busy := nofun
  held_kind := nofun

/-- A failure records a kind and a reason of that kind (R230, R221). -/
theorem MidExchange.fail {s : State} (h : MidExchange s) {k : Kind} {r : Reason} (hr : r.kind? = some k) :
    InvButHeld (fail s k r) where
  resp_wf := h.resp_wf
  cmd_fits := h.cmd_fits
  maxLen_fits := h.maxLen_fits
  outcome := hr
  read := trivial
  pending := nofun
  payload := nofun
  trailer := nofun
  success := fun hk => by cases hk; cases r <;> cases hr
  held_busy := nofun
  held_kind := nofun

/-- A success hands on a payload that is in `RESP` and within the capacity (R190, R36). -/
theorem MidExchange.succeed {s : State} (h : MidExchange s) (hlen : s.declLen ≤ s.maxLen)
    (hw : RespWritten s s.declLen.toNat) : InvButHeld (succeed s) where
  resp_wf := h.resp_wf
  cmd_fits := h.cmd_fits
  maxLen_fits := h.maxLen_fits
  outcome := ⟨rfl, rfl⟩
  read := trivial
  pending := nofun
  payload := nofun
  trailer := nofun
  success := fun _ => ⟨Nat.le_trans hlen h.maxLen_fits, hw⟩
  held_busy := nofun
  held_kind := nofun

/-- The sending step (R171). -/
theorem MidExchange.sendCommand {s : State} (h : MidExchange s) : InvButHeld (sendCommand s) :=
  MidExchange.beginRead (s := txWrite (rxFlush s) (encodeFrame s.cmd))
    ⟨h.resp_wf, h.cmd_fits, h.maxLen_fits, h.kind, h.reason⟩ rfl ⟨rfl, rfl, by simp⟩ nofun

/-- The end of a cancel records the pending timeout (R187). -/
theorem MidExchange.cancelEnd {s : State} (h : MidExchange s) (hr : s.pendReason.kind? = some .timeout) :
    InvButHeld (cancelEnd s) :=
  MidExchange.fail (s := rxFlush s) ⟨h.resp_wf, h.cmd_fits, h.maxLen_fits, h.kind, h.reason⟩ hr

/-- Every verdict keeps the invariant, if the payload it reads or hands on is in `RESP` by then and within the capacity. -/
theorem Verdict.inv {u t : State} (hv : Verdict u t) (hm : MidExchange u)
    (hpay : u.fsm = .awaitingPayload ∨ u.fsm = .awaitingTrailer →
      u.declLen ≤ u.maxLen ∧ RespWritten u u.declLen.toNat) : InvButHeld t := by
  cases hv with
  | protocolError f len hr => exact (hm.withLength f len).fail hr
  | header => exact hm.beginRead rfl ⟨rfl, rfl, by simp⟩ nofun
  | extendedLength => exact (hm.withLength .extended _).beginRead rfl ⟨rfl, rfl, by simp, rfl⟩ nofun
  | payload f hpos hfits => exact (hm.withLength f _).beginRead rfl ⟨rfl, rfl, hpos, hfits⟩ nofun
  | noPayload f => exact (hm.withLength f 0).beginRead rfl ⟨rfl, rfl, by simp, Nat.zero_le _⟩ (fun _ => nofun)
  | trailer hs =>
    obtain ⟨hle, hw⟩ := hpay (.inl hs)
    exact hm.beginRead rfl ⟨rfl, rfl, by simp, hle⟩ (fun _ => hw)
  | success hs =>
    obtain ⟨hle, hw⟩ := hpay (.inr hs)
    exact hm.succeed hle hw

/-! ## The poll -/

/-- After a poll of the payload read every payload byte counted is in `RESP` (R182). -/
theorem respWritten_afterBytes {s : State} (h : Inv s) (hs : s.fsm = .awaitingPayload) :
    RespWritten (afterBytes s) (afterBytes s).cnt.toNat := by
  have hcnt := afterBytes_cnt_toNat (Nat.le_of_lt (cnt_lt_need h.read (by rw [hs]; rfl)))
  have hlen : (s.rx.take (takeCount s)).length = takeCount s := by simp [takeCount]
  intro j hj
  rw [afterBytes_resp_of_payload h.read hs, read?_writeBytes]
  split
  · rw [List.getElem?_eq_getElem (by omega)]; rfl
  · exact h.payload hs j (by omega)

/-- The payload a trailer is read for stays in `RESP` during a poll (R183). -/
theorem respWritten_trailer_afterBytes {s : State} (h : Inv s) (hs : s.fsm = .awaitingTrailer) :
    RespWritten (afterBytes s) (afterBytes s).declLen.toNat := by
  have hresp : (afterBytes s).resp = s.resp := afterBytes_resp_of_ne h.read (by rw [hs]; rfl) (by rw [hs]; nofun)
  rw [RespWritten, hresp, afterBytes_declLen]
  exact h.trailer hs

/-- A poll that leaves its block short keeps the invariant. -/
theorem inv_afterBytes_of_short {s : State} (h : Inv s) (hf : s.fsm.timeoutReason?.isSome) (hb : ¬ blockBuffered s) :
    Inv (afterBytes s) := by
  have hm := MidExchange.afterBytes h hf
  have hbusy : (afterBytes s).fsm.busy = true := by simpa using busy_of_reading hf
  exact
    { resp_wf := hm.resp_wf
      cmd_fits := hm.cmd_fits
      maxLen_fits := hm.maxLen_fits
      outcome := (outcomeAgrees_busy hbusy ..).2 ⟨hm.kind, hm.reason⟩
      read := readAgrees_afterBytes h.read hf hb
      pending := by simpa using h.pending
      payload := fun hs => respWritten_afterBytes h (by simpa using hs)
      trailer := fun hs => respWritten_trailer_afterBytes h (by simpa using hs)
      success := fun hk => by cases hm.kind.symm.trans hk
      held_busy := fun _ => hbusy
      held_kind := by simpa using h.held_kind }

/-- The check of a complete block keeps the invariant: a complete payload is the whole of `RESP[0..DECL_LEN)`. -/
theorem invButHeld_complete_afterBytes {s : State} (h : Inv s) (hf : s.fsm.timeoutReason?.isSome)
    (hb : blockBuffered s) : InvButHeld (complete (afterBytes s)) := by
  refine (Verdict.of_complete (by simpa using hf)).inv (MidExchange.afterBytes h hf) fun hs => ?_
  rw [afterBytes_fsm] at hs
  refine ⟨by simpa using declLen_le_maxLen h.read hs, ?_⟩
  rcases hs with hs | hs
  · have hw := respWritten_afterBytes h hs
    rwa [afterBytes_cnt_of_buffered h.read hf hb, need_eq_declLen h.read hs, ← afterBytes_declLen] at hw
  · exact respWritten_trailer_afterBytes h hs

/-! ## The cancel entry -/

/-- The cancel entry keeps the phase's own reason, which is a timeout's (R185, R188). -/
theorem inv_cancelEntry {s : State} (h : Inv s) {r : Reason} (hr : s.fsm.timeoutReason? = some r) :
    Inv (cancelEntry s r) := by
  have hm := h.midExchange (busy_of_reading (by rw [hr]; rfl))
  exact
    { resp_wf := h.resp_wf
      cmd_fits := h.cmd_fits
      maxLen_fits := h.maxLen_fits
      outcome := ⟨hm.kind, hm.reason⟩
      read := trivial
      pending := fun _ => by cases hs : s.fsm <;> rw [hs] at hr <;> cases hr <;> rfl
      payload := nofun
      trailer := nofun
      success := h.success
      held_busy := fun _ => rfl
      held_kind := h.held_kind }

theorem inv_clockCheck {s : State} (h : Inv s) : Inv (clockCheck s) := by
  obtain he | ⟨r, hr, -, he⟩ := clockCheck_eq s
  · rwa [he]
  · rw [he]; exact inv_cancelEntry h hr

/-! ## The turns -/

/-- An engine step keeps the invariant but for the held requests, which it does not touch. -/
theorem invButHeld_engineStep {s t : State} (h : Inv s) (ht : engineStep s = .next t) :
    InvButHeld t ∧ t.held = s.held := by
  obtain ⟨rfl, -, -⟩ | ⟨hs, rfl⟩ | ⟨hf, hb, rfl⟩ | ⟨hf, hb, rfl⟩ | ⟨hs, -, rfl⟩ :=
    engineStep_next h.maxLen_fits h.read ht
  · exact ⟨h.butHeld, rfl⟩
  · exact ⟨(h.midExchange (by rw [hs]; rfl)).sendCommand, rfl⟩
  · exact ⟨invButHeld_complete_afterBytes h hf hb, by simp⟩
  · exact ⟨(inv_clockCheck (inv_afterBytes_of_short h hf hb)).butHeld, by simp⟩
  · exact ⟨(h.midExchange (by rw [hs]; rfl)).cancelEnd (h.pending hs), rfl⟩

theorem inv_engineTurn {s t : State} (h : Inv s) (ht : engineTurn s = .next t) : Inv t := by
  obtain ⟨u, hu, rfl⟩ := engineTurn_next ht
  obtain ⟨hinv, hheld⟩ := invButHeld_engineStep h hu
  exact hinv.liftHeld (hheld ▸ h.held_kind)

/-- A held request decodes to the operation it was held for (R129). -/
theorem inv_hold {s : State} (h : Inv s) {i : Instr} (hb : s.fsm.busy = true) (hn : i.needsReady = true)
    (hw : i.wellFormed = true) : Inv (hold s i) := by
  refine h.withHeld _ _ _ _ _ _ _ (s.held ++ [encode i]) (fun _ => hb) fun p hp => ?_
  rcases List.mem_append.1 hp with hp | hp
  · exact h.held_kind p hp
  · rw [List.mem_singleton.1 hp]; exact ⟨i, decode_encode hw, hn⟩

/-- An accepted exchange starts with operands in their ranges and no outcome (R170, R38, R39). -/
theorem inv_accepted {s : State} (h : Inv s) {cmd : List Byte} {maxLen : U16} (hcmd : cmd.length ≤ payloadMax)
    (hmax : maxLen.toNat ≤ respBufCap) :
    Inv { s with cmd := cmd, maxLen := maxLen, kind := .none, reason := .none, fsm := .sending } where
  resp_wf := h.resp_wf
  cmd_fits := hcmd
  maxLen_fits := hmax
  outcome := ⟨rfl, rfl⟩
  read := trivial
  pending := nofun
  payload := nofun
  trailer := nofun
  success := nofun
  held_busy := fun _ => rfl
  held_kind := h.held_kind

/-- Every meaning of a well-formed instruction keeps the invariant. -/
theorem inv_exec {s t : State} (h : Inv s) {i : Instr} (hw : i.wellFormed = true) (ht : exec i s = .next t) :
    Inv t := by
  obtain ⟨hb, hn, rfl⟩ | ⟨-, v, -, rfl⟩ | ⟨-, cmd, maxLen, rfl, hmax, rfl⟩ | ⟨op, r, rfl⟩ | ⟨b, rfl⟩ | ⟨-, -, rfl⟩ |
    rfl := exec_next ht
  · exact inv_hold h hb hn hw
  · exact h.outside ..
  · exact inv_accepted h (of_decide_eq_true hw) hmax
  · exact h.outside ..
  · exact h.outside ..
  · exact inv_clockCheck h
  · exact h

theorem inv_runPacket {s t : State} (h : Inv s) {p : Packet} (ht : runPacket p s = .next t) : Inv t := by
  obtain ⟨i, hd, he⟩ | ⟨b, rfl⟩ := runPacket_next ht
  · exact inv_exec h (decode_eq_ok hd).2 he
  · exact h.outside ..

/-- Settles O47, turn by turn. -/
theorem everyStepKeepsTheInvariant : Obligations.EveryStepKeepsTheInvariant := by
  intro s t h ht
  obtain ⟨p, rest, -, he⟩ | ⟨rest, -, he⟩ | ⟨-, -, he⟩ | ⟨rest, -, rfl⟩ | ⟨-, -, rfl⟩ | ⟨rest, -, rfl⟩ |
    ⟨k, rest, -, rfl⟩ := step_next ht
  · exact inv_runPacket (h.taken rest) he
  · exact inv_engineTurn (h.taken rest) he
  · exact inv_engineTurn h he
  · exact h.outside ..
  · exact h.outside ..
  · exact inv_resetInput _
  · exact inv_resetInput _

end Sys2Proof.Machine
end

section
/-! Which steps write `TIMEOUT` (spec/10_state.md R30), `RESP_LEN` and `RESP` (R36, R37). -/

namespace Sys2Proof.Machine

/-! ## `TIMEOUT` -/

theorem afterTake_timeout (s : State) : (afterTake s).timeout = s.timeout := by
  unfold afterTake
  split
  · exact complete_timeout s
  · exact clockCheck_timeout s

theorem engineTurn_timeout {s t : State} (h : engineTurn s = .next t) : t.timeout = s.timeout := by
  obtain ⟨u, hu, rfl⟩ := engineTurn_next h
  rw [liftHeld_timeout]
  obtain rfl | ⟨-, rfl⟩ | ⟨-, rfl⟩ | ⟨-, -, rfl⟩ := engineStep_cases hu
  · rfl
  · rfl
  · rw [afterTake_timeout, afterBytes_timeout]
  · rfl

/-- Of the meanings only `SET_TIMEOUT` in a ready block writes `TIMEOUT`, with its operand (R120). -/
theorem exec_timeout {i : Instr} {s t : State} (h : exec i s = .next t) :
    t.timeout = s.timeout ∨ (s.fsm.busy = false ∧ i = .setTimeout t.timeout) := by
  obtain ⟨-, -, rfl⟩ | ⟨hready, v, rfl, rfl⟩ | ⟨-, cmd, maxLen, -, -, rfl⟩ | ⟨op, r, rfl⟩ | ⟨b, rfl⟩ | ⟨-, -, rfl⟩ |
    rfl := exec_next h
  · exact .inl rfl
  · exact .inr ⟨hready, rfl⟩
  · exact .inl rfl
  · exact .inl rfl
  · exact .inl rfl
  · exact .inl (clockCheck_timeout s)
  · exact .inl rfl

theorem partOfStep_params (k : Nat) (s : State) : (partOfStep k s).params = s.params := by
  unfold partOfStep
  split
  · rfl
  · split <;> rfl

/-- Settles O50: the packet of an accepted `SET_TIMEOUT` is that instruction's encoding, and no turn but reset's writes
`TIMEOUT` besides. -/
theorem onlySetTimeoutAndResetWriteTimeout : Obligations.OnlySetTimeoutAndResetWriteTimeout := by
  intro s t h
  obtain ⟨p, rest, ha, he⟩ | ⟨rest, -, he⟩ | ⟨-, -, he⟩ | ⟨rest, -, rfl⟩ | ⟨-, -, rfl⟩ | ⟨rest, ha, rfl⟩ |
    ⟨k, rest, ha, rfl⟩ := step_next h
  · obtain ⟨i, hd, hx⟩ | ⟨b, rfl⟩ := runPacket_next he
    · obtain hsame | ⟨hready, rfl⟩ := exec_timeout hx
      · exact .inl hsame
      · exact .inr (.inl ⟨hready, rest, by rw [ha, (decode_eq_ok hd).1]⟩)
    · exact .inl rfl
  · exact .inl (engineTurn_timeout (s := { s with agenda := rest }) he)
  · exact .inl (engineTurn_timeout he)
  · exact .inl rfl
  · exact .inl rfl
  · exact .inr (.inr ⟨⟨_, rest, ha, rfl⟩, rfl⟩)
  · refine .inr (.inr ⟨⟨_, rest, ha, rfl⟩, ?_⟩)
    rw [resetInWrite, resetInput_timeout, partOfStep_params]

/-! ## `RESP_LEN` and `RESP` -/

/-- The engine's turn writes `RESP_LEN` on success and `RESP` in the payload read (R190, R182). -/
theorem engineTurn_response {s t : State} (hi : Inv s) (h : engineTurn s = .next t) :
    (t.respLen = s.respLen ∨ (s.fsm = .awaitingTrailer ∧ t.fsm = .done ∧ t.respLen = s.declLen)) ∧
    (∀ i, Memory.read? t.resp i = Memory.read? s.resp i ∨ (s.fsm = .awaitingPayload ∧ i < s.declLen.toNat)) := by
  obtain ⟨u, hu, rfl⟩ := engineTurn_next h
  rw [liftHeld_respLen, liftHeld_fsm, liftHeld_resp]
  obtain ⟨rfl, -, -⟩ | ⟨-, rfl⟩ | ⟨hf, -, rfl⟩ | ⟨hf, -, rfl⟩ | ⟨-, -, rfl⟩ :=
    engineStep_next hi.maxLen_fits hi.read hu
  · exact ⟨.inl rfl, fun _ => .inl rfl⟩
  · exact ⟨.inl rfl, fun _ => .inl rfl⟩
  · rw [complete_resp]
    refine ⟨?_, read?_afterBytes hi.read hf⟩
    simpa using (Verdict.of_complete (u := afterBytes s) (by simpa using hf)).respLen
  · rw [clockCheck_respLen, clockCheck_resp, afterBytes_respLen]
    exact ⟨.inl rfl, read?_afterBytes hi.read hf⟩
  · exact ⟨.inl rfl, fun _ => .inl rfl⟩

theorem exec_response {i : Instr} {s t : State} (h : exec i s = .next t) :
    t.respLen = s.respLen ∧ t.resp = s.resp := by
  obtain ⟨-, -, rfl⟩ | ⟨-, v, -, rfl⟩ | ⟨-, cmd, maxLen, -, -, rfl⟩ | ⟨op, r, rfl⟩ | ⟨b, rfl⟩ | ⟨-, -, rfl⟩ | rfl :=
    exec_next h
  · exact ⟨rfl, rfl⟩
  · exact ⟨rfl, rfl⟩
  · exact ⟨rfl, rfl⟩
  · exact ⟨rfl, rfl⟩
  · exact ⟨rfl, rfl⟩
  · exact ⟨clockCheck_respLen s, clockCheck_resp s⟩
  · exact ⟨rfl, rfl⟩

theorem runPacket_response {p : Packet} {s t : State} (h : runPacket p s = .next t) :
    t.respLen = s.respLen ∧ t.resp = s.resp := by
  obtain ⟨i, -, hx⟩ | ⟨b, rfl⟩ := runPacket_next h
  · exact exec_response hx
  · exact ⟨rfl, rfl⟩

/-- Settles O51: outside reset only the engine's turn writes the response registers. -/
theorem responseRegistersAreWrittenOnlyByTheRead : Obligations.ResponseRegistersAreWrittenOnlyByTheRead := by
  intro s t hi h hreset
  obtain ⟨p, rest, -, he⟩ | ⟨rest, -, he⟩ | ⟨-, -, he⟩ | ⟨rest, -, rfl⟩ | ⟨-, -, rfl⟩ | ⟨rest, ha, rfl⟩ |
    ⟨k, rest, ha, rfl⟩ := step_next h
  · obtain ⟨hlen, hresp⟩ := runPacket_response he
    exact ⟨.inl hlen, fun i => .inl (congrArg (Memory.read? · i) hresp)⟩
  · exact engineTurn_response (s := { s with agenda := rest }) (hi.taken rest) he
  · exact engineTurn_response hi he
  · exact ⟨.inl rfl, fun _ => .inl rfl⟩
  · exact ⟨.inl rfl, fun _ => .inl rfl⟩
  · exact absurd ⟨_, rest, ha, rfl⟩ hreset
  · exact absurd ⟨_, rest, ha, rfl⟩ hreset

end Sys2Proof.Machine
end

section
/-! The hidden registers are unobservable from a ready state (spec/10_state.md R39 to R44, R261). The proof is a simulation:
`Alike` says which of them the rest of the exchange in flight still reads, and every step keeps two states alike. `EXCHANGE`
writes `MAXLEN`, `BeginRead` the registers of its read, and the checks write `DECL_LEN` before they read it; a buffer is
compared only in the bytes its block read has received. -/

namespace Sys2Proof.Machine

theorem State.SameVisible.refl (s : State) : s.SameVisible s :=
  ⟨⟨s.maxLen, s.hb, s.tb, s.need, s.cnt, s.dst, s.t0, s.ts, s.form, s.declLen, s.pendReason⟩, rfl⟩

theorem State.SameVisible.fsm {s t : State} (h : s.SameVisible t) : t.fsm = s.fsm := by
  obtain ⟨_, rfl⟩ := h; rfl

theorem State.SameVisible.rx {s t : State} (h : s.SameVisible t) : t.rx = s.rx := by
  obtain ⟨_, rfl⟩ := h; rfl

theorem State.SameVisible.held {s t : State} (h : s.SameVisible t) : t.held = s.held := by
  obtain ⟨_, rfl⟩ := h; rfl

theorem State.SameVisible.agenda {s t : State} (h : s.SameVisible t) : t.agenda = s.agenda := by
  obtain ⟨_, rfl⟩ := h; rfl

/-! ## The simulation relation -/

/-- `s` and `t` are in the same block read, each in order, with the same bytes received; the other bytes of the buffers are
left open, and so is `DECL_LEN` until a length check has set it. -/
structure SameRead (s t : State) : Prop where
  read_left : ReadAgrees s
  read_right : ReadAgrees t
  fits : s.maxLen.toNat ≤ respBufCap
  maxLen : t.maxLen = s.maxLen
  need : t.need = s.need
  cnt : t.cnt = s.cnt
  dst : t.dst = s.dst
  t0 : t.t0 = s.t0
  declLen : s.fsm = .awaitingPayload ∨ s.fsm = .awaitingTrailer → t.declLen = s.declLen
  received : received t = received s

/-- `t` looks like `s`, and they agree on the hidden registers that the rest of the exchange in flight reads. -/
structure Alike (s t : State) : Prop where
  visible : s.SameVisible t
  sending : s.fsm = .sending → t.maxLen = s.maxLen ∧ s.maxLen.toNat ≤ respBufCap
  reading : s.fsm.timeoutReason?.isSome → SameRead s t
  cancelling : s.fsm = .cancelling → t.ts = s.ts ∧ t.pendReason = s.pendReason

/-- Outcomes with next states alike, or the same stop. -/
inductive OutcomeAlike : Host.Outcome State Fault Refusal → Host.Outcome State Fault Refusal → Prop where
  | next {s t : State} (h : Alike s t) : OutcomeAlike (.next s) (.next t)
  | fault (r : Fault) : OutcomeAlike (.fault r) (.fault r)
  | refused (r : Refusal) : OutcomeAlike (.refused r) (.refused r)

theorem OutcomeAlike.sameVisible {o o' : Host.Outcome State Fault Refusal} (h : OutcomeAlike o o') :
    OutcomeSameVisible o o' := by
  cases h with
  | next h => exact h.visible
  | fault r => rfl
  | refused r => rfl

theorem OutcomeAlike.andThen {o o' : Host.Outcome State Fault Refusal} {k : State → Host.Outcome State Fault Refusal}
    (h : OutcomeAlike o o') (hk : ∀ {s t}, Alike s t → OutcomeAlike (k s) (k t)) :
    OutcomeAlike (andThen o k) (andThen o' k) := by
  cases h with
  | next h => exact hk h
  | fault r => exact .fault r
  | refused r => exact .refused r

/-- In a ready state no hidden register is read any more. -/
theorem Alike.of_ready {s t : State} (hv : s.SameVisible t) (hready : s.fsm.busy = false) : Alike s t where
  visible := hv
  sending := fun hs => by rw [hs] at hready; cases hready
  reading := fun hf => by rw [busy_of_reading hf] at hready; cases hready
  cancelling := fun hs => by rw [hs] at hready; cases hready

/-- The parameters, `TIMEOUT`, the link, the clock, the answers, the schedule and the held requests are visible: changing them
alike keeps states alike. -/
theorem Alike.outside {s t : State} (ha : Alike s t) (params : Params) (timeout clk : U32) (tx rx : List Byte)
    (replies : List Reply) (agenda : List Turn) (held : List Packet) :
    Alike
      { s with params := params, timeout := timeout, clk := clk, tx := tx, rx := rx, replies := replies,
               agenda := agenda, held := held }
      { t with params := params, timeout := timeout, clk := clk, tx := tx, rx := rx, replies := replies,
               agenda := agenda, held := held } where
  visible := by obtain ⟨hidden, rfl⟩ := ha.visible; exact ⟨hidden, rfl⟩
  sending := ha.sending
  reading := fun hf =>
    have hr := ha.reading hf
    ⟨hr.read_left, hr.read_right, hr.fits, hr.maxLen, hr.need, hr.cnt, hr.dst, hr.t0, hr.declLen, hr.received⟩
  cancelling := ha.cancelling

/-! ## The checks of a complete block -/

/-- Two exchanges in flight that look alike, with the same legal capacity: what the checks of a complete block begin with. -/
structure SameExchange (u v : State) : Prop where
  visible : u.SameVisible v
  maxLen : v.maxLen = u.maxLen
  fits : u.maxLen.toNat ≤ respBufCap

theorem SameExchange.withForm {u v : State} (h : SameExchange u v) (f : Form) :
    SameExchange { u with form := f } { v with form := f } where
  visible := by obtain ⟨hidden, rfl⟩ := h.visible; exact ⟨{ hidden with form := f }, rfl⟩
  maxLen := h.maxLen
  fits := h.fits

theorem SameExchange.withDeclLen {u v : State} (h : SameExchange u v) (len : U16) :
    SameExchange { u with declLen := len } { v with declLen := len } where
  visible := by obtain ⟨hidden, rfl⟩ := h.visible; exact ⟨{ hidden with declLen := len }, rfl⟩
  maxLen := h.maxLen
  fits := h.fits

/-- A block read begins with nothing received (R172). -/
theorem received_beginRead (u : State) (f : FsmState) (n : U16) (d : Dst) : received (beginRead u f n d) = [] := by
  cases f <;> simp [received, respBytes]

/-- `BeginRead` writes every register of the read it begins (R172). -/
theorem SameExchange.beginRead {u v : State} (h : SameExchange u v) {f : FsmState} {n : U16} {d : Dst}
    (hf : f.timeoutReason?.isSome) (hl : ReadAgrees (beginRead u f n d)) (hr : ReadAgrees (beginRead v f n d))
    (hdecl : f = .awaitingPayload ∨ f = .awaitingTrailer → v.declLen = u.declLen) :
    Alike (beginRead u f n d) (beginRead v f n d) where
  visible := by
    obtain ⟨hidden, rfl⟩ := h.visible
    exact ⟨{ hidden with need := n, cnt := 0, dst := d, t0 := u.clk }, rfl⟩
  sending := fun hs => by cases hs; cases hf
  reading := fun _ =>
    { read_left := hl
      read_right := hr
      fits := h.fits
      maxLen := h.maxLen
      need := rfl
      cnt := rfl
      dst := rfl
      t0 := by obtain ⟨_, rfl⟩ := h.visible; rfl
      declLen := hdecl
      received := by rw [received_beginRead, received_beginRead] }
  cancelling := fun hs => by cases hs; cases hf

theorem alike_fail {u v : State} (h : u.SameVisible v) (k : Kind) (r : Reason) : Alike (fail u k r) (fail v k r) := by
  obtain ⟨hidden, rfl⟩ := h
  exact .of_ready ⟨hidden, rfl⟩ rfl

theorem alike_succeed {u v : State} (h : u.SameVisible v) (hd : v.declLen = u.declLen) :
    Alike (succeed u) (succeed v) := by
  obtain ⟨hidden, rfl⟩ := h
  replace hd : hidden.declLen = u.declLen := hd
  exact .of_ready ⟨hidden, by simp only [succeed, State.withHidden, hd]; rfl⟩ rfl

/-- The capacity check reads `MAXLEN` and the `DECL_LEN` just set (R181). -/
theorem SameExchange.capacityCheck {u v : State} (h : SameExchange u v) (hd : v.declLen = u.declLen) :
    Alike (capacityCheck u) (capacityCheck v) := by
  by_cases hover : u.maxLen < u.declLen
  · rw [capacityCheck_of_over hover, capacityCheck_of_over (by rw [h.maxLen, hd]; exact hover)]
    exact alike_fail h.visible _ _
  · have hle : u.declLen ≤ u.maxLen := BitVec.not_lt.1 hover
    have hle' : v.declLen ≤ v.maxLen := by rw [h.maxLen, hd]; exact hle
    by_cases hzero : u.declLen = 0
    · rw [capacityCheck_of_empty hzero, capacityCheck_of_empty (hd.trans hzero)]
      exact h.beginRead rfl ⟨rfl, rfl, by simp, hle⟩ ⟨rfl, rfl, by simp, hle'⟩ fun _ => hd
    · have hpos : 0 < u.declLen := (BitVec.pos_iff_ne_zero _).2 hzero
      rw [capacityCheck_of_fits hle hpos, capacityCheck_of_fits hle' (hd ▸ hpos), hd]
      exact h.beginRead rfl ⟨rfl, rfl, hpos, hle⟩ ⟨rfl, hd.symm, hpos, hle'⟩ fun _ => hd

/-- A byte of a run two buffers have in common. -/
theorem getElem_of_run_eq {n : Nat} {v w : Vector Byte n} {k len : Nat}
    (h : (v.toList.drop k).take len = (w.toList.drop k).take len) (i : Nat) (hi : i < len) (hn : k + i < n) :
    v[k + i] = w[k + i] := by
  have he := congrArg (·[i]?) h
  simpa [hi, hn] using he

/-- The ACK check reads the six bytes received (R176). -/
theorem SameExchange.ackCheck {u v : State} (h : SameExchange u v) (hb : v.hb.toList.take 6 = u.hb.toList.take 6) :
    Alike (ackCheck u) (ackCheck v) := by
  rw [Machine.ackCheck, Machine.ackCheck, hb]
  split
  · exact h.beginRead rfl ⟨rfl, rfl, by simp⟩ ⟨rfl, rfl, by simp⟩ nofun
  · exact alike_fail h.visible _ _

theorem SameExchange.normalLengthCheck {u v : State} (h : SameExchange u v) (h3 : v.hb[3] = u.hb[3])
    (h4 : v.hb[4] = u.hb[4]) : Alike (normalLengthCheck u) (normalLengthCheck v) := by
  rw [Machine.normalLengthCheck, Machine.normalLengthCheck, h3, h4]
  split
  · exact (h.withDeclLen _).capacityCheck rfl
  · exact alike_fail h.visible _ _

theorem SameExchange.formSelection {u v : State} (h : SameExchange u v) (h3 : v.hb[3] = u.hb[3])
    (h4 : v.hb[4] = u.hb[4]) : Alike (formSelection u) (formSelection v) := by
  rw [Machine.formSelection, Machine.formSelection, h3, h4]
  split
  · exact (h.withForm .extended).beginRead rfl ⟨rfl, rfl, by simp, rfl⟩ ⟨rfl, rfl, by simp, rfl⟩ nofun
  · exact (h.withForm .normal).normalLengthCheck h3 h4

/-- The header's checks read the five bytes received (R177 to R179). -/
theorem SameExchange.preambleCheck {u v : State} (h : SameExchange u v)
    (hb : v.hb.toList.take 5 = u.hb.toList.take 5) : Alike (preambleCheck u) (preambleCheck v) := by
  have hpre : v.hb.toList.take 3 = u.hb.toList.take 3 := by
    simpa [List.take_take] using congrArg (List.take 3) hb
  rw [Machine.preambleCheck, Machine.preambleCheck, hpre]
  split
  · exact h.formSelection (getElem_of_run_eq (k := 0) hb 3 (by simp) (by simp))
      (getElem_of_run_eq (k := 0) hb 4 (by simp) (by simp))
  · exact alike_fail h.visible _ _

/-- The extended length check reads the three bytes received (R180). -/
theorem SameExchange.extendedLengthCheck {u v : State} (h : SameExchange u v)
    (hb : (v.hb.toList.drop 5).take 3 = (u.hb.toList.drop 5).take 3) :
    Alike (extendedLengthCheck u) (extendedLengthCheck v) := by
  have h5 : v.hb[5] = u.hb[5] := getElem_of_run_eq hb 0 (by simp) (by simp)
  have h6 : v.hb[6] = u.hb[6] := getElem_of_run_eq hb 1 (by simp) (by simp)
  have h7 : v.hb[7] = u.hb[7] := getElem_of_run_eq hb 2 (by simp) (by simp)
  rw [Machine.extendedLengthCheck, Machine.extendedLengthCheck, h5, h6, h7]
  split
  · exact (h.withDeclLen _).capacityCheck rfl
  · exact alike_fail h.visible _ _

/-- The trailer check reads the two bytes received and the payload (R184). -/
theorem SameExchange.trailerCheck {u v : State} (h : SameExchange u v) (hd : v.declLen = u.declLen)
    (hb : v.tb.toList.take 2 = u.tb.toList.take 2) : Alike (trailerCheck u) (trailerCheck v) := by
  have h0 : v.tb[0] = u.tb[0] := getElem_of_run_eq (k := 0) hb 0 (by simp) (by simp)
  have h1 : v.tb[1] = u.tb[1] := getElem_of_run_eq (k := 0) hb 1 (by simp) (by simp)
  have hresp : respBytes v u.declLen.toNat = respBytes u u.declLen.toNat := by
    obtain ⟨_, rfl⟩ := h.visible; rfl
  rw [Machine.trailerCheck, Machine.trailerCheck, h0, h1, hd, hresp]
  split
  · exact alike_fail h.visible _ _
  · split
    · exact alike_fail h.visible _ _
    · exact alike_succeed h.visible hd

/-! ## The poll -/

theorem SameRead.takeCount {s t : State} (h : SameRead s t) (hv : s.SameVisible t) : takeCount t = takeCount s := by
  rw [Machine.takeCount, Machine.takeCount, hv.rx, h.need, h.cnt]

theorem SameRead.blockBuffered {s t : State} (h : SameRead s t) (hv : s.SameVisible t) :
    blockBuffered t ↔ blockBuffered s := by
  rw [Machine.blockBuffered, Machine.blockBuffered, hv.rx, h.need, h.cnt]

theorem SameRead.windowExpired {s t : State} (h : SameRead s t) (hv : s.SameVisible t) :
    windowExpired t = windowExpired s := by
  obtain ⟨hidden, rfl⟩ := hv
  rw [Machine.windowExpired, h.t0]; rfl

/-- The same bytes stored at the same place; only `RESP` is visible. -/
theorem stored_sameVisible {s t : State} (hv : s.SameVisible t) (d : Dst) (j : Nat) (b : List Byte) :
    (stored s d j b).SameVisible (stored t d j b) := by
  obtain ⟨hidden, rfl⟩ := hv
  cases d with
  | hb0 => exact ⟨{ hidden with hb := setBytes hidden.hb j b }, rfl⟩
  | hb5 => exact ⟨{ hidden with hb := setBytes hidden.hb (5 + j) b }, rfl⟩
  | resp0 => exact ⟨hidden, rfl⟩
  | tb0 => exact ⟨{ hidden with tb := setBytes hidden.tb j b }, rfl⟩

theorem SameRead.afterBytes_visible {s t : State} (h : SameRead s t) (hv : s.SameVisible t) :
    (afterBytes s).SameVisible (afterBytes t) := by
  have htaken : (rxTake s (Machine.takeCount s)).SameVisible (rxTake t (Machine.takeCount s)) := by
    obtain ⟨hidden, rfl⟩ := hv; exact ⟨hidden, rfl⟩
  obtain ⟨hidden, hst⟩ := stored_sameVisible htaken s.dst s.cnt.toNat (s.rx.take (Machine.takeCount s))
  unfold afterBytes
  rw [h.takeCount hv, h.dst, h.cnt, hv.rx, hst]
  exact ⟨{ hidden with cnt := s.cnt + BitVec.ofNat 16 (Machine.takeCount s) }, rfl⟩

theorem SameRead.received_afterBytes {s t : State} (h : SameRead s t) (hv : s.SameVisible t)
    (hf : s.fsm.timeoutReason?.isSome) : Machine.received (afterBytes t) = Machine.received (afterBytes s) := by
  rw [Machine.received_afterBytes (h.maxLen ▸ h.fits) h.read_right (by rwa [hv.fsm]),
    Machine.received_afterBytes h.fits h.read_left hf, h.takeCount hv, h.received, hv.rx]

/-- A poll that leaves its block short leaves it short alike. -/
theorem SameRead.afterBytes {s t : State} (h : SameRead s t) (hv : s.SameVisible t)
    (hf : s.fsm.timeoutReason?.isSome) (hb : ¬ Machine.blockBuffered s) :
    SameRead (afterBytes s) (afterBytes t) where
  read_left := readAgrees_afterBytes h.read_left hf hb
  read_right := readAgrees_afterBytes h.read_right (by rwa [hv.fsm]) (mt (h.blockBuffered hv).1 hb)
  fits := by simpa using h.fits
  maxLen := by simpa using h.maxLen
  need := by simpa using h.need
  cnt := by simp [h.cnt, h.takeCount hv]
  dst := by simpa using h.dst
  t0 := by simpa using h.t0
  declLen := by simpa using h.declLen
  received := h.received_afterBytes hv hf

theorem Alike.afterBytes {s t : State} (ha : Alike s t) (hf : s.fsm.timeoutReason?.isSome)
    (hb : ¬ blockBuffered s) : Alike (afterBytes s) (afterBytes t) where
  visible := (ha.reading hf).afterBytes_visible ha.visible
  sending := fun hs => by rw [afterBytes_fsm] at hs; rw [hs] at hf; cases hf
  reading := fun _ => (ha.reading hf).afterBytes ha.visible hf hb
  cancelling := fun hs => by rw [afterBytes_fsm] at hs; rw [hs] at hf; cases hf

/-- The clock check reads `T0`, and writes `TS` and `PEND_REASON` where it enters the cancel (R174, R185). -/
theorem Alike.clockCheck {s t : State} (ha : Alike s t) : Alike (clockCheck s) (clockCheck t) := by
  unfold Machine.clockCheck
  rw [ha.visible.fsm]
  cases hr : s.fsm.timeoutReason? with
  | none => exact ha
  | some r =>
    simp only [(ha.reading (by rw [hr]; rfl)).windowExpired ha.visible]
    split
    · obtain ⟨hidden, rfl⟩ := ha.visible
      exact
        { visible := ⟨{ hidden with ts := s.clk, pendReason := r }, rfl⟩
          sending := nofun
          reading := nofun
          cancelling := fun _ => ⟨rfl, rfl⟩ }
    · exact ha

/-- The check of a complete block looks only at bytes its read has received: with `CNT = NEED` they are all it looks at. -/
theorem SameRead.complete {s t : State} (h : SameRead s t) (hv : s.SameVisible t)
    (hf : s.fsm.timeoutReason?.isSome) (hb : Machine.blockBuffered s) :
    Alike (complete (Machine.afterBytes s)) (complete (Machine.afterBytes t)) := by
  have he : SameExchange (Machine.afterBytes s) (Machine.afterBytes t) :=
    ⟨h.afterBytes_visible hv, by simpa using h.maxLen, by simpa using h.fits⟩
  have hcnt : (Machine.afterBytes s).cnt = s.need := afterBytes_cnt_of_buffered h.read_left hf hb
  have hcnt' : (Machine.afterBytes t).cnt = s.need :=
    (afterBytes_cnt_of_buffered h.read_right (by rwa [hv.fsm]) ((h.blockBuffered hv).2 hb)).trans h.need
  have hrec := h.received_afterBytes hv hf
  have hread := h.read_left
  unfold ReadAgrees at hread
  unfold Machine.received at hrec
  unfold Machine.complete
  rw [afterBytes_fsm, afterBytes_fsm, hv.fsm] at hrec ⊢
  rw [hcnt, hcnt'] at hrec
  cases hs : s.fsm <;> simp only [hs] at hrec hread ⊢
  case idle | sending | done | failed | cancelling => rw [hs] at hf; cases hf
  case awaitingAck =>
    obtain ⟨-, hneed, -⟩ := hread
    rw [hneed] at hrec
    exact he.ackCheck hrec
  case awaitingResponseHeader =>
    obtain ⟨-, hneed, -⟩ := hread
    rw [hneed] at hrec
    exact he.preambleCheck hrec
  case awaitingResponseLength =>
    obtain ⟨-, hneed, -⟩ := hread
    rw [hneed] at hrec
    exact he.extendedLengthCheck hrec
  case awaitingPayload =>
    obtain ⟨-, -, -, hle⟩ := hread
    have hdecl := h.declLen (.inl hs)
    exact he.beginRead rfl ⟨rfl, rfl, by simp, by simpa using hle⟩
      ⟨rfl, rfl, by simp, by simpa [hdecl, h.maxLen] using hle⟩ (fun _ => by simpa using hdecl)
  case awaitingTrailer =>
    obtain ⟨-, hneed, -⟩ := hread
    rw [hneed] at hrec
    exact he.trailerCheck (by simpa using h.declLen (.inr hs)) hrec

/-! ## The engine's turn -/

theorem Alike.sendCommand {s t : State} (ha : Alike s t) (hs : s.fsm = .sending) :
    Alike (sendCommand s) (sendCommand t) := by
  obtain ⟨hmax, hfits⟩ := ha.sending hs
  obtain ⟨hidden, rfl⟩ := ha.visible
  have he : SameExchange (txWrite (rxFlush s) (encodeFrame s.cmd))
      (txWrite (rxFlush (s.withHidden hidden)) (encodeFrame s.cmd)) := ⟨⟨hidden, rfl⟩, hmax, hfits⟩
  exact he.beginRead rfl ⟨rfl, rfl, by simp⟩ ⟨rfl, rfl, by simp⟩ nofun

theorem Alike.cancelSettled {s t : State} (ha : Alike s t) (hs : s.fsm = .cancelling) :
    cancelSettled t = cancelSettled s := by
  obtain ⟨hts, -⟩ := ha.cancelling hs
  obtain ⟨hidden, rfl⟩ := ha.visible
  rw [Machine.cancelSettled, hts]; rfl

theorem Alike.cancelEnd {s t : State} (ha : Alike s t) (hs : s.fsm = .cancelling) :
    Alike (cancelEnd s) (cancelEnd t) := by
  obtain ⟨-, hpend⟩ := ha.cancelling hs
  obtain ⟨hidden, rfl⟩ := ha.visible
  rw [cancelEnd_eq, cancelEnd_eq, hpend]
  exact alike_fail ⟨hidden, rfl⟩ _ _

/-- In a reading state both polls complete their block, or neither does. -/
theorem Alike.engineStep_reading {s t : State} (ha : Alike s t) (hf : s.fsm.timeoutReason?.isSome) :
    OutcomeAlike (engineStep s) (engineStep t) := by
  have hr := ha.reading hf
  have hf' : t.fsm.timeoutReason?.isSome := by rwa [ha.visible.fsm]
  have hfits' : t.maxLen.toNat ≤ respBufCap := hr.maxLen ▸ hr.fits
  by_cases hb : blockBuffered s
  · rw [engineStep_of_buffered hr.fits hr.read_left hf hb,
      engineStep_of_buffered hfits' hr.read_right hf' ((hr.blockBuffered ha.visible).2 hb)]
    exact .next (hr.complete ha.visible hf hb)
  · rw [engineStep_of_short hr.fits hr.read_left hf hb,
      engineStep_of_short hfits' hr.read_right hf' (mt (hr.blockBuffered ha.visible).1 hb)]
    exact .next (ha.afterBytes hf hb).clockCheck

theorem Alike.engineStep {s t : State} (ha : Alike s t) : OutcomeAlike (engineStep s) (engineStep t) := by
  by_cases hf : s.fsm.timeoutReason?.isSome
  · exact ha.engineStep_reading hf
  · unfold Machine.engineStep
    rw [ha.visible.fsm]
    cases hs : s.fsm <;> simp only
    case idle | done | failed => exact .next ha
    case sending => exact .next (ha.sendCommand hs)
    case awaitingAck | awaitingResponseHeader | awaitingResponseLength | awaitingPayload | awaitingTrailer =>
      exact absurd (by rw [hs]; rfl) hf
    case cancelling =>
      rw [ha.cancelSettled hs]
      split
      · exact .next (ha.cancelEnd hs)
      · exact .next ha

theorem Alike.liftHeld {s t : State} (ha : Alike s t) : Alike (liftHeld s) (liftHeld t) := by
  cases hb : s.fsm.busy with
  | true => rwa [liftHeld_of_busy s hb, liftHeld_of_busy t (ha.visible.fsm ▸ hb)]
  | false =>
    rw [liftHeld_of_ready s hb, liftHeld_of_ready t (ha.visible.fsm ▸ hb), ha.visible.held, ha.visible.agenda]
    obtain ⟨hidden, rfl⟩ := ha.visible
    exact ha.outside ..

theorem Alike.engineTurn {s t : State} (ha : Alike s t) : OutcomeAlike (engineTurn s) (engineTurn t) :=
  ha.engineStep.andThen fun h => .next h.liftHeld

/-- Whether the engine has a step depends on `T0` in a reading state and on `TS` in a cancel (R197). -/
theorem Alike.engineEnabled {s t : State} (ha : Alike s t) : engineEnabled t = engineEnabled s := by
  unfold Machine.engineEnabled
  rw [ha.visible.fsm, ha.visible.rx]
  cases hs : s.fsm <;> simp only
  case cancelling => exact ha.cancelSettled hs
  case awaitingAck | awaitingResponseHeader | awaitingResponseLength | awaitingPayload | awaitingTrailer =>
    rw [(ha.reading (by rw [hs]; rfl)).windowExpired ha.visible]

/-! ## The packets -/

theorem Alike.reply {s t : State} (ha : Alike s t) (op : HostOp) (r : Result) :
    Alike (reply s op r) (reply t op r) := by
  obtain ⟨hidden, rfl⟩ := ha.visible
  exact ha.outside ..

theorem Alike.deliver {s t : State} (ha : Alike s t) (b : List Byte) : Alike (deliver s b) (deliver t b) := by
  obtain ⟨hidden, rfl⟩ := ha.visible
  exact ha.outside ..

theorem Alike.tick {s t : State} (ha : Alike s t) : Alike (tick s) (tick t) := by
  obtain ⟨hidden, rfl⟩ := ha.visible
  exact ha.outside ..

theorem Alike.whenReady {i : Instr} {s t : State} {go go' : Host.Outcome State Fault Refusal} (ha : Alike s t)
    (hgo : OutcomeAlike go go') : OutcomeAlike (whenReady i s go) (whenReady i t go') := by
  cases hb : s.fsm.busy with
  | true =>
    rw [whenReady_busy hb, whenReady_busy (ha.visible.fsm ▸ hb)]
    obtain ⟨hidden, rfl⟩ := ha.visible
    exact .next (ha.outside ..)
  | false => rw [whenReady_ready hb, whenReady_ready (ha.visible.fsm ▸ hb)]; exact hgo

theorem Alike.cancelDue {s t : State} (ha : Alike s t) : cancelDue t = cancelDue s := by
  rw [Machine.cancelDue, Machine.cancelDue, ha.visible.fsm]
  by_cases hf : s.fsm.timeoutReason?.isSome
  · have hr := ha.reading hf
    rw [ha.visible.rx, hr.cnt, hr.need, hr.windowExpired ha.visible]
  · simp [hf]

/-- Every operation answers from visible registers; `EXCHANGE` writes the `MAXLEN` that its exchange reads. -/
theorem Alike.exec {s t : State} (ha : Alike s t) (i : Instr) : OutcomeAlike (exec i s) (exec i t) := by
  obtain ⟨hidden, rfl⟩ := ha.visible
  cases i with
  | setTimeout v => exact ha.whenReady (.next (ha.outside ..))
  | getTimeout | getStatus | getRespLen | timeoutX2 => exact ha.whenReady (.next (ha.reply _ _))
  | exchange cmd maxLen =>
    refine ha.whenReady ?_
    unfold requireCapacity
    split
    · rename_i hfits
      exact .next
        { visible := ⟨{ hidden with maxLen := maxLen }, rfl⟩
          sending := fun _ => ⟨rfl, hfits⟩
          reading := nofun
          cancelling := nofun }
    · exact .refused _
  | readResp i =>
    refine ha.whenReady ?_
    unfold requireRespIndex
    split
    · exact .next (ha.reply _ _)
    · exact .refused _
  | checksum | encodeFrame | isAck | decodeFrame => exact .next (ha.reply _ _)
  | frameAck | frameExtHeader | frameNormalHeader | frameTrailer => exact .next (ha.deliver _)
  | cancelSequence =>
    refine .next ?_
    rw [ha.cancelDue]
    split
    · exact ha.clockCheck
    · exact ha

theorem Alike.runPacket {s t : State} (ha : Alike s t) (p : Packet) :
    OutcomeAlike (runPacket p s) (runPacket p t) := by
  unfold Machine.runPacket
  split
  · exact ha.exec _
  · rename_i r _
    cases r with
    | undefinedOperation | operandsDoNotFit | sequenceTooLong | notACancel => exact .refused _
    | notAFrameUnit b => exact .next (ha.deliver b)

/-! ## The reset input -/

theorem alike_resetInput {s t : State} (hv : s.SameVisible t) : Alike (resetInput s) (resetInput t) := by
  obtain ⟨hidden, rfl⟩ := hv
  exact .of_ready (.refl _) rfl

/-- Only a block read times out (R173, R174). -/
theorem reading_of_stepTimesOut {s : State} (h : stepTimesOut s = true) : s.fsm.timeoutReason?.isSome := by
  simp only [stepTimesOut, Bool.and_eq_true] at h
  obtain ⟨⟨hf, -⟩, -⟩ := h
  exact hf

theorem Alike.stepTimesOut {s t : State} (ha : Alike s t) : stepTimesOut t = stepTimesOut s := by
  rw [Machine.stepTimesOut, Machine.stepTimesOut, ha.visible.fsm]
  by_cases hf : s.fsm.timeoutReason?.isSome
  · have hr := ha.reading hf
    rw [hr.cnt, hr.need, hr.takeCount ha.visible, hr.windowExpired ha.visible]
  · simp [hf]

/-- What a write has put on `TX` when a reset cuts it looks alike (R263). -/
theorem Alike.partOfStep {s t : State} (ha : Alike s t) (k : Nat) :
    (partOfStep k s).SameVisible (partOfStep k t) := by
  unfold Machine.partOfStep
  rw [ha.visible.fsm, ha.stepTimesOut]
  split
  · obtain ⟨hidden, rfl⟩ := ha.visible
    exact ⟨hidden, rfl⟩
  · split
    · rename_i hout
      rw [(ha.reading (reading_of_stepTimesOut hout)).takeCount ha.visible]
      obtain ⟨hidden, rfl⟩ := ha.visible
      exact ⟨hidden, rfl⟩
    · exact ha.visible

/-! ## The step and the run -/

theorem Alike.runTurn {s t : State} (ha : Alike s t) (x : Turn) : OutcomeAlike (runTurn x s) (runTurn x t) := by
  cases x with
  | packet p => exact ha.runPacket p
  | engine => exact ha.engineTurn
  | tick => exact .next ha.tick
  | reset => exact .next (alike_resetInput ha.visible)
  | resetInWrite k => exact .next (alike_resetInput (ha.partOfStep k))

/-- Every step keeps states alike. -/
theorem Alike.step {s t : State} (ha : Alike s t) : OutcomeAlike (step s) (step t) := by
  cases hs : s.agenda with
  | nil =>
    rw [step_idle s hs, step_idle t (ha.visible.agenda.trans hs), idleTurn, idleTurn, ha.engineEnabled]
    split
    · exact ha.engineTurn
    · exact .next ha.tick
  | cons x rest =>
    rw [step_turn s hs, step_turn t (ha.visible.agenda.trans hs)]
    refine Alike.runTurn ?_ x
    obtain ⟨hidden, rfl⟩ := ha.visible
    exact ha.outside ..

/-- And so does every run. -/
theorem Alike.run {s t : State} (ha : Alike s t) (n : Nat) : OutcomeAlike (core.run n s) (core.run n t) := by
  induction n generalizing s t with
  | zero => exact .next ha
  | succ n ih =>
    have hstep : OutcomeAlike (core.step s) (core.step t) := ha.step
    simp only [Host.Core.run]
    generalize core.step s = o, core.step t = o' at hstep ⊢
    cases hstep with
    | next h => exact ih h
    | fault r => exact .fault r
    | refused r => exact .refused r

/-- Settles O59: a ready state is alike to itself with any hidden contents, and every run from there keeps it so. -/
theorem hiddenRegistersAreUnobservable : Obligations.HiddenRegistersAreUnobservable :=
  fun _ h n hready => ((Alike.of_ready ⟨h, rfl⟩ hready).run n).sameVisible

end Sys2Proof.Machine
end

section
/-! The buffers and the queues at the block's edge (spec/20_memory.md): what the host reads of `RESP` (R62), how the remote's bytes
arrive in `RX` (R67, R68), that no step stores outside a buffer (R61), and which steps write `TX` (R64). -/

namespace Sys2Proof.Machine

/-! ## `RESP` as the host reads it -/

theorem requireRespIndex_of_lt {i : U16} (h : i.toNat < respBufCap) (go : Host.Outcome State Fault Refusal) :
    requireRespIndex i go = go := if_pos h

theorem respByte_of_read? {s : State} {i : Nat} {v : Byte} (h : Memory.read? s.resp i = some v) :
    respByte s i = v := by rw [respByte, h, Option.getD_some]

/-- Settles O21: a ready block passes the readiness check, the index passes its own, and the answer is `respByte`. -/
theorem readRespAnswersTheByte : Obligations.ReadRespAnswersTheByte := by
  intro s i hready hi
  refine ⟨respByte s i.toNat, ?_, fun v hv => respByte_of_read? hv⟩
  exact (whenReady_ready hready).trans (requireRespIndex_of_lt hi _)

/-! ## Bytes from the remote -/

/-- An unbounded `RX` takes every byte (R67). -/
theorem deliver_of_unbounded {s : State} (h : s.params.rxDepth = none) (b : List Byte) :
    deliver s b = { s with rx := s.rx ++ b } := by simp only [deliver, rxFits, h]

/-- A bounded `RX` takes the bytes it has room for (R68). -/
theorem deliver_of_bounded {s : State} {depth : Nat} (h : s.params.rxDepth = some depth) (b : List Byte) :
    deliver s b = { s with rx := s.rx ++ b.take (depth - s.rx.length) } := by simp only [deliver, rxFits, h]

/-- Settles O41: the meaning of a frame unit is the delivery of its bytes. -/
theorem frameUnitsArriveInRx : Obligations.FrameUnitsArriveInRx := by
  intro s h
  exact ⟨congrArg _ (deliver_of_unbounded h _), fun _ _ _ => congrArg _ (deliver_of_unbounded h _),
    fun _ _ => congrArg _ (deliver_of_unbounded h _), fun _ => congrArg _ (deliver_of_unbounded h _)⟩

/-- The turn of bytes from the remote delivers them, a unit of the table or not. -/
theorem step_received (s : State) (b : List Byte) (rest : List Turn) :
    step { s with agenda := .packet (.received b) :: rest } = .next (deliver { s with agenda := rest } b) := by
  calc step { s with agenda := .packet (.received b) :: rest }
    _ = runTurn (.packet (.received b)) { s with agenda := rest } := step_turn _ rfl
    _ = .next (deliver { s with agenda := rest } b) := runPacket_received b _

/-- Settles O42: the two kinds of queue differ in what `deliver` keeps. -/
theorem remoteMayDeliverAnyBytes : Obligations.RemoteMayDeliverAnyBytes := by
  intro s b rest
  rw [step_received]
  exact ⟨fun h => congrArg _ (deliver_of_unbounded (s := { s with agenda := rest }) h b),
    fun depth h => congrArg _ (deliver_of_bounded (s := { s with agenda := rest }) h b)⟩

/-! ## No store outside a buffer -/

/-- In the invariant an engine step faults in no state: a poll's bytes fit the buffer they go to, and no other step stores. -/
theorem engineStep_no_fault {s : State} (h : Inv s) (f : Fault) : engineStep s ≠ .fault f := by
  by_cases hf : s.fsm.timeoutReason?.isSome
  · rw [engineStep_reading_eq h.maxLen_fits h.read hf]; nofun
  · unfold engineStep
    cases hs : s.fsm with
    | idle | sending | done | failed | cancelling => nofun
    | awaitingAck | awaitingResponseHeader | awaitingResponseLength | awaitingPayload | awaitingTrailer =>
      exact absurd (by rw [hs]; rfl) hf

theorem engineTurn_no_fault {s : State} (h : Inv s) (f : Fault) : engineTurn s ≠ .fault f := by
  unfold engineTurn
  cases he : engineStep s with
  | next u => nofun
  | fault g => exact absurd he (engineStep_no_fault h g)
  | refused r => nofun

/-- A packet stores nothing: it runs a meaning, delivers bytes, or is refused. -/
theorem runPacket_no_fault (p : Packet) (s : State) (f : Fault) : runPacket p s ≠ .fault f := by
  unfold runPacket
  cases decode p with
  | ok i => exact exec_no_fault i s f
  | error r => cases r <;> nofun

theorem idleTurn_no_fault {s : State} (h : Inv s) (f : Fault) : idleTurn s ≠ .fault f := by
  unfold idleTurn
  split
  · exact engineTurn_no_fault h f
  · nofun

/-- Settles O48: of all turns only the engine's can store, and its poll stores inside the buffer. -/
theorem noStepOverrunsABuffer : Obligations.NoStepOverrunsABuffer := by
  intro s f h
  cases ha : s.agenda with
  | nil => rw [step_idle s ha]; exact idleTurn_no_fault h f
  | cons turn rest =>
    rw [step_turn s ha]
    cases turn with
    | packet p => exact runPacket_no_fault p _ f
    | engine => exact engineTurn_no_fault (h.taken rest) f
    | tick | reset | resetInWrite => nofun

/-! ## What is sent -/

/-- `t` has on `TX` what `s` had, or the cancel's 6 bytes besides and has entered the cancel (R185). -/
def SendsCancelAtMost (s t : State) : Prop :=
  t.tx = s.tx ∨ (s.fsm.timeoutReason?.isSome = true ∧ t.fsm = .cancelling ∧ t.tx = s.tx ++ ackPattern)

theorem clockCheck_sends (s : State) : SendsCancelAtMost s (clockCheck s) := by
  obtain he | ⟨r, hr, -, he⟩ := clockCheck_eq s <;> rw [he]
  · exact .inl rfl
  · exact .inr ⟨by rw [hr]; rfl, rfl, rfl⟩

/-- A poll's check of a complete block sends nothing (R189), its clock check at most the cancel. -/
theorem afterTake_sends (s : State) : SendsCancelAtMost s (afterTake s) := by
  unfold afterTake
  split
  · exact .inl (complete_tx s)
  · exact clockCheck_sends s

/-- The engine's turn sends the frame of the command from the sending state, and else at most the cancel (R171, R185). -/
theorem engineTurn_sends {s t : State} (h : engineTurn s = .next t) :
    t.tx = s.tx ∨ (s.fsm = .sending ∧ t.fsm = .awaitingAck ∧ t.tx = s.tx ++ encodeFrame s.cmd) ∨
    (s.fsm.timeoutReason?.isSome = true ∧ t.fsm = .cancelling ∧ t.tx = s.tx ++ ackPattern) := by
  obtain ⟨u, hu, rfl⟩ := engineTurn_next h
  rw [liftHeld_tx, liftHeld_fsm]
  obtain rfl | ⟨hs, rfl⟩ | ⟨-, rfl⟩ | ⟨-, -, rfl⟩ := engineStep_cases hu
  · exact .inl rfl
  · exact .inr (.inl ⟨hs, rfl, rfl⟩)
  · obtain hsame | hcancel := afterTake_sends (afterBytes s)
    · exact .inl (by simpa using hsame)
    · exact .inr (.inr (by simpa using hcancel))
  · exact .inl rfl

/-- Of the meanings only the cancel sequence sends. -/
theorem exec_sends {i : Instr} {s t : State} (h : exec i s = .next t) : SendsCancelAtMost s t := by
  obtain ⟨-, -, rfl⟩ | ⟨-, v, -, rfl⟩ | ⟨-, cmd, maxLen, -, -, rfl⟩ | ⟨op, r, rfl⟩ | ⟨b, rfl⟩ | ⟨-, -, rfl⟩ | rfl :=
    exec_next h
  · exact .inl rfl
  · exact .inl rfl
  · exact .inl rfl
  · exact .inl rfl
  · exact .inl rfl
  · exact clockCheck_sends s
  · exact .inl rfl

theorem runPacket_sends {p : Packet} {s t : State} (h : runPacket p s = .next t) : SendsCancelAtMost s t := by
  obtain ⟨i, -, hx⟩ | ⟨b, rfl⟩ := runPacket_next h
  · exact exec_sends hx
  · exact .inl rfl

/-- Settles O52: the engine's turn and the cancel sequence send, and a reset inside a write leaves what was sent by then. -/
theorem onlyFramesAndCancelsAreSent : Obligations.OnlyFramesAndCancelsAreSent := by
  intro s t h
  obtain ⟨p, rest, -, he⟩ | ⟨rest, -, he⟩ | ⟨-, -, he⟩ | ⟨rest, -, rfl⟩ | ⟨-, -, rfl⟩ | ⟨rest, -, rfl⟩ |
    ⟨k, rest, ha, rfl⟩ := step_next h
  · exact (runPacket_sends he).imp_right (.inr ∘ .inl)
  · exact (engineTurn_sends (s := { s with agenda := rest }) he).imp_right (Or.imp_right .inl)
  · exact (engineTurn_sends he).imp_right (Or.imp_right .inl)
  · exact .inl rfl
  · exact .inl rfl
  · exact .inl rfl
  · obtain ⟨hs, he⟩ | ⟨hs, he⟩ | ⟨-, -, he⟩ := resetInWrite_cases k { s with agenda := rest } <;> rw [he]
    · exact .inr (.inr (.inr ⟨k, rest, ha, rfl, .inl ⟨hs, rfl⟩⟩))
    · exact .inr (.inr (.inr ⟨k, rest, ha, rfl, .inr ⟨hs, rfl⟩⟩))
    · exact .inl rfl

end Sys2Proof.Machine
end

section
/-! The verdict on the extended length (spec/42_link_engine.md R180, R181): the three bytes stand behind the header in `HB`, and the
length check and the capacity check decide on them. -/

namespace Sys2Proof.Machine

/-! ## The block in `HB` -/

/-- The extended length is read into `HB` from offset 5 on, 3 bytes long (R178). -/
theorem read_of_awaitingResponseLength {s : State} (hr : ReadAgrees s) (hs : s.fsm = .awaitingResponseLength) :
    s.dst = .hb5 ∧ s.need = 3 := by
  unfold ReadAgrees at hr
  simp only [hs] at hr
  obtain ⟨hdst, hneed, -⟩ := hr
  exact ⟨hdst, hneed⟩

/-- A poll of the extended length leaves the five header bytes. -/
theorem afterBytes_hb_take_five {s : State} (hd : s.dst = .hb5) :
    (afterBytes s).hb.toList.take 5 = s.hb.toList.take 5 := by
  simp only [afterBytes_hb, hd, reduceCtorEq, if_false, if_true]
  exact setBytes_take_before _ _ _ _ (Nat.le_add_right 5 _)

/-- The complete extended length stands in the last three bytes of `HB` (R40). -/
theorem afterBytes_hb_drop_five {s : State} (h : Inv s) (hs : s.fsm = .awaitingResponseLength) (hb : blockBuffered s) :
    (afterBytes s).hb.toList.drop 5 = block s := by
  have hf : s.fsm.timeoutReason?.isSome := by rw [hs]; rfl
  have hcnt : (afterBytes s).cnt = 3 := by
    rw [afterBytes_cnt_of_buffered h.read hf hb, (read_of_awaitingResponseLength h.read hs).2]
  have hall : received (afterBytes s) = (afterBytes s).hb.toList.drop 5 := by
    unfold received
    simp only [afterBytes_fsm, hs, hcnt]
    exact List.take_of_length_le (by simp)
  rw [← hall, received_of_buffered h.maxLen_fits h.read hf hb]

/-- The last three bytes of `HB`, one by one. -/
theorem hb_getElem_of_drop_five {hb : Vector Byte 8} {h l c : Byte} (he : hb.toList.drop 5 = [h, l, c]) :
    hb[5] = h ∧ hb[6] = l ∧ hb[7] = c := by
  have hget : ∀ i, hb.toList[5 + i]? = [h, l, c][i]? := fun i => by rw [← he, List.getElem?_drop]
  exact ⟨by simpa using hget 0, by simpa using hget 1, by simpa using hget 2⟩

/-- A poll that completes the extended length changes `HB`, `RX` and `CNT`. -/
theorem afterBytes_eq_of_extendedLength {s : State} (h : Inv s) (hs : s.fsm = .awaitingResponseLength)
    (hb : blockBuffered s) :
    afterBytes s = { s with hb := (afterBytes s).hb, rx := rxAfterBlock s, cnt := 3 } := by
  obtain ⟨hdst, hneed⟩ := read_of_awaitingResponseLength h.read hs
  have hcnt := afterBytes_cnt_of_buffered h.read (by rw [hs]; rfl) hb
  calc afterBytes s
    _ = { s with hb := (afterBytes s).hb, rx := s.rx.drop (takeCount s), cnt := (afterBytes s).cnt } :=
      afterBytes_eq_header (.inr hdst)
    _ = { s with hb := (afterBytes s).hb, rx := rxAfterBlock s, cnt := 3 } := by
      rw [rxAfterBlock, takeCount_of_buffered hb, hcnt, hneed]

/-! ## The length check -/

/-- The extended length is below `2^16`, so its register holds it whole (R69). -/
theorem ofNat_extendedLength_toNat (h l : Byte) : (BitVec.ofNat 16 (extendedLength h l)).toNat = h.toNat * 256 + l.toNat := by
  have hh := h.isLt
  have hl := l.isLt
  rw [extendedLength, BitVec.toNat_ofNat]
  omega

/-- The sum of the two length bytes and the LCS (R100). -/
theorem sumsToZero_three (h l c : Byte) : sumsToZero [h, l, c] = true ↔ (h.toNat + l.toNat + c.toNat) % 256 = 0 := by
  simp [sumsToZero_iff, Nat.add_assoc]

/-- The status word of an exchange that ends in a protocol error, with the reason's code in bits 15:8 (R35). -/
theorem statusWord_protocolError (s : State) (r : Reason) :
    statusWord { s with kind := .protocolError, reason := r, fsm := .failed } =
      (0x00080003 : U32) ||| (r.code.setWidth 32 <<< 8) := by
  simp only [statusWord]
  cases r <;> rfl

/-- What a protocol error leaves and answers (R189, R230). -/
theorem fail_protocolError_eq (s : State) (r : Reason) : fail s .protocolError r =
    { s with kind := .protocolError, reason := r, fsm := .failed,
             replies := s.replies ++ [⟨.exchange, .u32 ((0x00080003 : U32) ||| (r.code.setWidth 32 <<< 8))⟩] } := by
  rw [← statusWord_protocolError s r]
  rfl

/-- The length check (R180) on the bytes `h l c` behind the header. -/
theorem extendedLengthCheck_of_bytes {u : State} {h l c : Byte} (hbytes : u.hb.toList.drop 5 = [h, l, c]) :
    extendedLengthCheck u =
      if (h.toNat + l.toNat + c.toNat) % 256 = 0 then
        capacityCheck { u with declLen := BitVec.ofNat 16 (extendedLength h l) }
      else fail u .protocolError .peLcsExtended := by
  obtain ⟨rfl, rfl, rfl⟩ := hb_getElem_of_drop_five hbytes
  simp only [extendedLengthCheck, sumsToZero_three, protocolError_eq]

/-- The poll that completes the extended length goes on to the length check. -/
theorem engineStep_extendedLength {s : State} (h : Inv s) (hs : s.fsm = .awaitingResponseLength)
    (hb : blockBuffered s) : engineStep s = .next (extendedLengthCheck (afterBytes s)) := by
  rw [engineStep_of_buffered h.maxLen_fits h.read (by rw [hs]; rfl) hb, complete, afterBytes_fsm, hs]

/-- Settles O33: the complete block is checked in the poll's own step, first its sum and then its length (R180, R181). -/
theorem extendedLengthVerdict : Obligations.ExtendedLengthVerdict := by
  intro s h l c hi hs hb hblock
  have hdrop := afterBytes_hb_drop_five hi hs hb
  have hfront := afterBytes_hb_take_five (read_of_awaitingResponseLength hi.read hs).1
  refine ⟨(afterBytes s).hb, BitVec.ofNat 16 (extendedLength h l), ?_, ofNat_extendedLength_toNat h l, ?_⟩
  · rw [← hfront, ← hdrop, List.take_append_drop]
  rw [engineStep_extendedLength hi hs hb, extendedLengthCheck_of_bytes (hdrop.trans hblock),
    afterBytes_eq_of_extendedLength hi hs hb]
  refine ⟨fun hbad => ?_, fun hgood hover => ?_, fun hgood hpos hfits => ?_, fun hgood hzero => ?_⟩
  · rw [if_neg hbad, fail_protocolError_eq]; rfl
  · exact congrArg _ ((if_pos hgood).trans ((capacityCheck_of_over hover).trans (fail_protocolError_eq _ _)))
  · exact congrArg _ ((if_pos hgood).trans (capacityCheck_of_fits hfits hpos))
  · rw [hzero]
    exact congrArg _ ((if_pos hgood).trans (capacityCheck_of_empty rfl))

end Sys2Proof.Machine
end

section
/-! The decoder and the encoder invert each other (spec/30_encoding.md R92 to R111), on the opcode table's words too, and a code that
names no operation is refused by name (R110). -/

namespace Sys2Proof

/-- Settles O2: `decode_encode` for the whole table. -/
theorem decodeOfEncodeIsTheInstruction : Obligations.DecodeOfEncodeIsTheInstruction :=
  fun _ hwf => decode_encode hwf

/-- Settles O3: `decode_eq_ok` for the three channels. -/
theorem decodedPacketIsItsEncoding : Obligations.DecodedPacketIsItsEncoding :=
  fun _ _ h => decode_eq_ok h

/-- A table word that stands for the encoding of a well-formed instruction is read as that instruction. -/
theorem decodeTableWord_of_encode {nbits w : Nat} {i : Instr} (hp : tablePacket nbits w = encode i)
    (hw : i.wellFormed = true) : decodeTableWord nbits w = some i := by
  rw [decodeTableWord, hp, decode_encode hw]
  rfl

/-- Settles O1: each word's packet is the encoding of the word's row, which is well-formed. -/
theorem tableWordsDecodeToTheirRows : Obligations.TableWordsDecodeToTheirRows := by
  unfold Obligations.TableWordsDecodeToTheirRows
  and_intros
  on_goal -1 => exact decode_encode (i := .cancelSequence) rfl
  all_goals exact decodeTableWord_of_encode rfl rfl

/-- No operation has a code that R110 leaves undefined. -/
theorem HostOp.code_defined (h : HostOp) :
    ¬(h.code = 0x00 ∨ (0x07 ≤ h.code ∧ h.code ≤ 0x0F) ∨ 0x15 ≤ h.code) := by
  cases h <;> decide

/-- A code that R110 leaves undefined names no operation. -/
theorem HostOp.ofCode_eq_none {op : Byte} (h : op = 0x00 ∨ (0x07 ≤ op ∧ op ≤ 0x0F) ∨ 0x15 ≤ op) :
    HostOp.ofCode op = none := by
  cases ho : HostOp.ofCode op with
  | none => rfl
  | some o =>
    obtain rfl := HostOp.code_of_ofCode ho
    exact absurd h o.code_defined

namespace Machine

/-- A request whose code names no operation is refused, whatever its operands and the state (R110). -/
theorem runPacket_undefinedOperation {op : Byte} (h : HostOp.ofCode op = none) (operands : List Operand) (s : State) :
    runPacket (.request op operands) s = .refused (.undefinedOperation op) := by
  simp only [runPacket, decode, decodeRequest, h, runRejected]

/-- Settles O4: the turn of a request with an undefined code is its refusal. -/
theorem undefinedOperationCodesAreRefused : Obligations.UndefinedOperationCodesAreRefused := by
  intro s op operands rest hop
  calc step { s with agenda := .packet (.request op operands) :: rest }
    _ = runTurn (.packet (.request op operands)) { s with agenda := rest } := step_turn _ rfl
    _ = .refused (.undefinedOperation op) := runPacket_undefinedOperation (HostOp.ofCode_eq_none hop) _ _

end Machine

end Sys2Proof
end

section
/-! Frames, byte for byte (spec/41_frame_codec.md): the layout `ENCODE_FRAME` gives a payload (R97, R143), what `DECODE_FRAME` accepts
(R146), and the answers of the four codec operations. -/

namespace Sys2Proof.Machine

/-! ## The layout of an encoded frame -/

/-- The header of the normal form with the length byte `n` (R92). -/
def normalHeader (n : Byte) : List Byte := preamble ++ [n, checksum [n]]

/-- The header of the extended form with the length bytes `hi` and `lo` (R93). -/
def extendedHeader (hi lo : Byte) : List Byte := preamble ++ [markerByte, markerByte, hi, lo, checksum [hi, lo]]

/-- A payload of at most 255 bytes gets the normal form (R92, R97). -/
theorem encodeFrame_normal {p : List Byte} (h : p.length ≤ 255) :
    encodeFrame p = normalHeader (BitVec.ofNat 8 p.length) ++ p ++ [checksum p, postamble] := by
  rw [encodeFrame, normalHeader, frameHeader, if_pos (show p.length ≤ normalMax from h)]

/-- A longer payload gets the extended form (R93, R97). -/
theorem encodeFrame_extended {p : List Byte} (h : 256 ≤ p.length) :
    encodeFrame p = extendedHeader (BitVec.ofNat 8 (p.length / 256)) (BitVec.ofNat 8 p.length) ++ p ++
      [checksum p, postamble] := by
  rw [encodeFrame, extendedHeader, frameHeader, if_neg (show ¬p.length ≤ normalMax from Nat.not_le.2 h)]

/-- Settles O11: the length bytes are the length in one digit or two of base 256. -/
theorem encodedFrameLayout : Obligations.EncodedFrameLayout := by
  intro p hmax
  have hlen : p.length ≤ 65535 := hmax
  refine ⟨fun h => ⟨_, ?_, encodeFrame_normal h⟩, fun h => ⟨_, _, ?_, encodeFrame_extended h⟩⟩ <;>
    simp only [BitVec.toNat_ofNat] <;> omega

/-! ## What `DECODE_FRAME` accepts -/

/-- The receiver's sum check accepts exactly the checksum (R99, R100, R142). -/
theorem sumsToZero_append_iff (s : List Byte) (c : Byte) : sumsToZero (s ++ [c]) = true ↔ c = checksum s := by
  rw [sumsToZero_iff, byteSum_append, byteSum_cons, byteSum_nil, Nat.add_zero, byteSum_add_mod_iff, ← checksum_toNat,
    BitVec.toNat_inj]

/-- One byte more of a run. -/
theorem take_succ_eq_append_byteAt {r : List Byte} {n : Nat} (h : n < r.length) :
    r.take (n + 1) = r.take n ++ [byteAt r n] := by
  rw [List.take_succ_eq_append_getElem h, byteAt, List.getD_eq_getElem r 0 h]

/-- Two bytes more of a run. -/
theorem take_add_two {r : List Byte} {n : Nat} (h : n + 2 ≤ r.length) :
    r.take (n + 2) = r.take n ++ [byteAt r n, byteAt r (n + 1)] := by
  rw [take_succ_eq_append_byteAt (by omega), take_succ_eq_append_byteAt (by omega), List.append_assoc]
  rfl

/-- A trailer stands behind `n` bytes exactly where the two bytes behind them are the trailer's (R94). -/
theorem take_add_two_eq_iff {r p : List Byte} {n : Nat} {a b : Byte} :
    p.length = n ∧ r.take (n + 2) = p ++ [a, b] ↔
      n + 2 ≤ r.length ∧ p = r.take n ∧ byteAt r n = a ∧ byteAt r (n + 1) = b := by
  constructor
  · rintro ⟨hlen, htake⟩
    have hr : n + 2 ≤ r.length := by
      have := congrArg List.length htake
      simp only [List.length_take, List.length_append, List.length_cons, List.length_nil] at this
      omega
    rw [take_add_two hr] at htake
    obtain ⟨hp, htrailer⟩ := List.append_inj' htake rfl
    obtain ⟨ha, hb⟩ := List.cons.inj htrailer
    exact ⟨hr, hp.symm, ha, (List.cons.inj hb).1⟩
  · rintro ⟨hr, rfl, rfl, rfl⟩
    exact ⟨List.length_take_of_le (by omega), take_add_two hr⟩

/-- The checks behind a header accept exactly a payload of the declared length within the capacity, and its trailer (R146). -/
theorem decodeBody_append_eq_ok_iff {hdr r p : List Byte} {cap len c : Nat} :
    decodeBody (hdr ++ r) cap hdr.length len = .ok p c ↔
      len ≤ cap ∧ c = hdr.length + (len + 2) ∧ p.length = len ∧ r.take (len + 2) = p ++ [checksum p, postamble] := by
  rw [take_add_two_eq_iff]
  simp only [decodeBody, List.drop_left, Nat.add_assoc, byteAt_append_right, List.length_append]
  constructor
  · intro h
    split at h; · cases h
    next hcap =>
    split at h; · cases h
    next hwhole =>
    split at h; · cases h
    next hdcs =>
    split at h; · cases h
    next hpost =>
    cases h
    exact ⟨Nat.not_lt.1 hcap, rfl, by omega, rfl, not_not.1 hdcs, not_not.1 hpost⟩
  · rintro ⟨hcap, rfl, hlen, rfl, hdcs, hpost⟩
    rw [if_neg (by omega), if_neg (by omega), if_neg (not_not.2 hdcs), if_neg (not_not.2 hpost)]

/-- A header at the front, and behind it what the checks accept, is one frame at the front. -/
theorem header_and_decodeBody_iff {s hdr p : List Byte} {cap len c : Nat} :
    hdr <+: s ∧ decodeBody s cap hdr.length len = .ok p c ↔
      p.length ≤ cap ∧ len = p.length ∧ c = p.length + (hdr.length + 2) ∧
        s.take c = hdr ++ p ++ [checksum p, postamble] := by
  constructor
  · rintro ⟨⟨r, rfl⟩, h⟩
    obtain ⟨hcap, rfl, rfl, htake⟩ := decodeBody_append_eq_ok_iff.1 h
    exact ⟨hcap, rfl, by omega, by rw [List.take_length_add_append, htake, List.append_assoc]⟩
  · rintro ⟨hcap, rfl, rfl, htake⟩
    rw [List.append_assoc] at htake
    have hfront : hdr <+: s := (List.prefix_append hdr _).trans (htake ▸ List.take_prefix _ s)
    obtain ⟨r, rfl⟩ := hfront
    rw [Nat.add_left_comm, List.take_length_add_append] at htake
    exact ⟨List.prefix_append hdr r,
      decodeBody_append_eq_ok_iff.2 ⟨hcap, Nat.add_left_comm .., rfl, List.append_cancel_left htake⟩⟩

/-- Behind a normal header the checks on the body decide: the header is not the extended marker, because `FF` has the
checksum `01` (R98, R99). -/
theorem decodeFrame_normalHeader {n : Byte} {s : List Byte} (h : normalHeader n <+: s) (cap : U16) :
    decodeFrame s cap = decodeBody s cap.toNat 5 n.toNat := by
  have hlong : ¬s.length < 5 := Nat.not_lt.2 h.length_le
  obtain ⟨r, rfl⟩ := h
  have hmarker : ¬(n = markerByte ∧ checksum [n] = markerByte) := by
    rintro ⟨rfl, h⟩
    exact absurd h (by decide)
  have hsum : sumsToZero [n, checksum [n]] = true := (sumsToZero_append_iff [n] _).2 rfl
  exact (if_neg hlong).trans ((if_neg (not_not.2 rfl)).trans ((if_neg hmarker).trans (if_pos hsum)))

/-- Behind an extended header the checks on the body decide (R98, R100). -/
theorem decodeFrame_extendedHeader {hi lo : Byte} {s : List Byte} (h : extendedHeader hi lo <+: s) (cap : U16) :
    decodeFrame s cap = decodeBody s cap.toNat 8 (extendedLength hi lo) := by
  have hwhole : ¬s.length < 8 := Nat.not_lt.2 h.length_le
  have hlong : ¬s.length < 5 := by omega
  obtain ⟨r, rfl⟩ := h
  have hsum : sumsToZero [hi, lo, checksum [hi, lo]] = true := (sumsToZero_append_iff [hi, lo] _).2 rfl
  exact (if_neg hlong).trans ((if_neg (not_not.2 rfl)).trans ((if_pos ⟨rfl, rfl⟩).trans
    ((if_neg hwhole).trans (if_pos hsum))))

/-- What `DECODE_FRAME` accepts begins with a header of one of the two forms (R146, R147). -/
theorem header_of_decodeFrame_eq_ok {s p : List Byte} {cap : U16} {c : Nat} (h : decodeFrame s cap = .ok p c) :
    (∃ n, normalHeader n <+: s) ∨ ∃ hi lo, extendedHeader hi lo <+: s := by
  unfold decodeFrame at h
  split at h; · cases h
  next hlong =>
  split at h; · cases h
  next hpre =>
  have hfive : s.take 5 = preamble ++ [byteAt s 3, byteAt s 4] := by
    rw [take_add_two (by omega), not_not.1 hpre]
  split at h
  next hmarker =>
    split at h; · cases h
    next hwhole =>
    split at h
    next hsum =>
      have hlcs := (sumsToZero_append_iff [byteAt s 5, byteAt s 6] _).1 hsum
      refine .inr ⟨byteAt s 5, byteAt s 6, List.prefix_iff_eq_take.2 ?_⟩
      change _ = s.take 8
      rw [take_succ_eq_append_byteAt (by omega), take_add_two (by omega), hfive, hmarker.1, hmarker.2, hlcs]
      rfl
    · cases h
  · split at h
    next hsum =>
      have hlcs := (sumsToZero_append_iff [byteAt s 3] _).1 hsum
      refine .inl ⟨byteAt s 3, List.prefix_iff_eq_take.2 ?_⟩
      change _ = s.take 5
      rw [hfive, hlcs]
      rfl
    · cases h

/-- `DECODE_FRAME` accepts what the checks on the body accept behind a header of either form. -/
theorem decodeFrame_eq_ok_iff {s p : List Byte} {cap : U16} {c : Nat} : decodeFrame s cap = .ok p c ↔
    (∃ n, normalHeader n <+: s ∧ decodeBody s cap.toNat 5 n.toNat = .ok p c) ∨
    (∃ hi lo, extendedHeader hi lo <+: s ∧ decodeBody s cap.toNat 8 (extendedLength hi lo) = .ok p c) := by
  constructor
  · intro h
    obtain ⟨n, hn⟩ | ⟨hi, lo, hx⟩ := header_of_decodeFrame_eq_ok h
    · exact .inl ⟨n, hn, (decodeFrame_normalHeader hn cap).symm.trans h⟩
    · exact .inr ⟨hi, lo, hx, (decodeFrame_extendedHeader hx cap).symm.trans h⟩
  · rintro (⟨n, hn, h⟩ | ⟨hi, lo, hx, h⟩)
    · exact (decodeFrame_normalHeader hn cap).trans h
    · exact (decodeFrame_extendedHeader hx cap).trans h

/-- Settles O15: a header of either form and the body behind it make one frame. -/
theorem acceptedFrameIsWellFormed : Obligations.AcceptedFrameIsWellFormed := by
  intro s p cap c
  rw [decodeFrame_eq_ok_iff, and_or_left, ← exists_and_left, ← exists_and_left]
  refine or_congr (exists_congr fun n => header_and_decodeBody_iff (hdr := normalHeader n)) ?_
  refine exists_congr fun hi => ?_
  rw [← exists_and_left]
  exact exists_congr fun lo => header_and_decodeBody_iff (hdr := extendedHeader hi lo)

/-! ## The codec operations -/

/-- `IS_ACK` decides equality with the pattern (R145). -/
theorem isAckFrame_eq_decide (b : List Byte) : isAckFrame b = decide (b = ackPattern) := by
  rw [isAckFrame, beq_eq_decide]

/-- Settles O16: the four meanings read no register. -/
theorem codecOperationsAnswerInEveryState : Obligations.CodecOperationsAnswerInEveryState := by
  intro s
  refine ⟨fun _ => rfl, fun _ => rfl, fun b => ?_, fun _ _ => rfl⟩
  calc exec (.isAck b) s
    _ = .next (reply s .isAck (.bool (isAckFrame b))) := rfl
    _ = .next (reply s .isAck (.bool (decide (b = ackPattern)))) := by rw [isAckFrame_eq_decide]

end Sys2Proof.Machine
end

section
/-! What the block refuses (spec/40_linkconfig.md R128, spec/30_encoding.md R111), and the cancel sequence as an action of its own
(R115, spec/42_link_engine.md R185). -/

namespace Sys2Proof.Machine

/-! ## Illegal operands -/

theorem requireRespIndex_of_ge {i : U16} (h : respBufCap ≤ i.toNat) (go : Host.Outcome State Fault Refusal) :
    requireRespIndex i go = .refused (.respIndexOutOfRange i) := if_neg (Nat.not_lt.2 h)

theorem requireCapacity_of_gt {maxLen : U16} (h : respBufCap < maxLen.toNat) (go : Host.Outcome State Fault Refusal) :
    requireCapacity maxLen go = .refused (.exchangeOverCapacity maxLen) := if_neg (Nat.not_le.2 h)

/-- Settles O22: a ready block goes on to the operand check, which refuses. -/
theorem illegalOperandsAreRefused : Obligations.IllegalOperandsAreRefused := fun _ hready =>
  ⟨fun _ hi => (whenReady_ready hready).trans (requireRespIndex_of_ge hi _),
    fun _ _ hlen => (whenReady_ready hready).trans (requireCapacity_of_gt hlen _)⟩

/-! ## The cancel sequence -/

/-- "`elapsed(T0) >= TIMEOUT`" (R174, R247). -/
theorem windowExpired_iff (s : State) : windowExpired s = true ↔ s.timeout ≤ s.clk - s.t0 := decide_eq_true_iff

/-- When the block read has just timed out (R174). -/
theorem cancelDue_iff (s : State) : cancelDue s = true ↔
    s.fsm.timeoutReason?.isSome = true ∧ s.rx = [] ∧ s.cnt < s.need ∧ s.timeout ≤ s.clk - s.t0 := by
  simp only [cancelDue, Bool.and_eq_true, decide_eq_true_eq, List.isEmpty_iff, windowExpired_iff, and_assoc]

theorem execCancelSequence_of_due {s : State} (h : cancelDue s = true) :
    exec .cancelSequence s = .next (clockCheck s) := by
  rw [exec, execCancelSequence, if_pos h]

theorem execCancelSequence_of_not_due {s : State} (h : ¬cancelDue s = true) :
    exec .cancelSequence s = .next s := by
  rw [exec, execCancelSequence, if_neg h]

/-- An expired window raises the phase's timeout (R174, R188). -/
theorem clockCheck_of_expired {s : State} {r : Reason} (hr : s.fsm.timeoutReason? = some r)
    (hw : windowExpired s = true) : clockCheck s = cancelEntry s r := by
  simp only [clockCheck, hr, hw, if_true]

/-- A poll that finds `RX` empty takes nothing and goes on to the checks. -/
theorem poll_of_empty {s : State} (h : s.rx = []) : poll s = .next (afterTake s) := by
  have hk : takeCount s = 0 := by rw [takeCount, h]; exact Nat.zero_min _
  simp only [poll, hk, rxTake, List.drop_zero, List.take_zero, storeBytes, andThen, BitVec.add_zero]

/-- Settles O36: the poll of a just timed-out block read takes nothing, finds the block short, and its clock check is the cancel
sequence's. -/
theorem cancelSequenceEntersTheCancel : Obligations.CancelSequenceEntersTheCancel := by
  intro s r hr hrx hshort hexpired
  have hf : s.fsm.timeoutReason?.isSome = true := by rw [hr]; rfl
  have hexec := execCancelSequence_of_due ((cancelDue_iff s).2 ⟨hf, hrx, hshort, hexpired⟩)
  have hcancel : clockCheck s = cancelEntry s r := clockCheck_of_expired hr ((windowExpired_iff s).2 hexpired)
  refine ⟨hexec.trans (congrArg _ hcancel), ?_⟩
  calc engineStep s
    _ = poll s := engineStep_reading hf
    _ = .next (afterTake s) := poll_of_empty hrx
    _ = .next (clockCheck s) := congrArg _ (if_neg (BitVec.ne_of_lt hshort))
    _ = exec .cancelSequence s := hexec.symm

/-- Settles O37: each of the four conditions contradicts one part of `cancelDue`. -/
theorem cancelSequenceOtherwiseDoesNothing : Obligations.CancelSequenceOtherwiseDoesNothing := by
  intro s h
  refine execCancelSequence_of_not_due fun hdue => ?_
  obtain ⟨hf, hrx, hshort, hexpired⟩ := (cancelDue_iff s).1 hdue
  obtain hnone | hbuffered | hcomplete | hopen := h
  · rw [hnone] at hf; cases hf
  · exact hbuffered hrx
  · exact absurd hshort (BitVec.not_lt.2 hcomplete)
  · exact absurd hexpired (BitVec.not_le.2 hopen)

end Sys2Proof.Machine
end

section
/-! The status reads and `TIMEOUT_X2` of a ready block (spec/40_linkconfig.md R121, R124 to R126), and the end of the hold (R129). -/

namespace Sys2Proof.Machine

/-! ## The reads of the registers -/

/-- Settles O18: a ready block passes the readiness check, and the meaning behind it is the reply alone. -/
theorem statusReadsAnswerTheRegisters : Obligations.StatusReadsAnswerTheRegisters := fun _ hready =>
  ⟨whenReady_ready hready, whenReady_ready hready, whenReady_ready hready⟩

/-- The double saturates (R124). It is exact below the bound: the bound is a 32-bit value, so a double it admits has not wrapped. -/
theorem doubledTimeout_toNat (s : State) :
    (doubledTimeout s).toNat = min (2 * s.timeout.toNat) s.params.derivedTimeoutMax.toNat := by
  obtain hover | hwithin := Nat.lt_or_ge s.params.derivedTimeoutMax.toNat (2 * s.timeout.toNat)
  · rw [doubledTimeout, if_pos hover, Nat.min_eq_right hover.le]
  · have hfits : 2 * s.timeout.toNat < 2 ^ 32 := hwithin.trans_lt s.params.derivedTimeoutMax.isLt
    rw [doubledTimeout, if_neg hwithin.not_gt, Nat.min_eq_left hwithin, BitVec.toNat_ofNat, Nat.mod_eq_of_lt hfits]

/-- Settles O20: a ready block answers `doubledTimeout`, which is the saturated double. -/
theorem timeoutX2SaturatesTheDouble : Obligations.TimeoutX2SaturatesTheDouble := fun s hready =>
  ⟨doubledTimeout s, doubledTimeout_toNat s, whenReady_ready hready⟩

/-! ## The hold -/

/-- The engine's turn is its step, then the lift of the hold (R129). -/
theorem engineTurn_of_engineStep {s t : State} (h : engineStep s = .next t) : engineTurn s = .next (liftHeld t) := by
  rw [engineTurn, h, andThen]

/-- Settles O24: whether the hold is lifted turns on the state the step ends in. -/
theorem engineStepLiftsTheHold : Obligations.EngineStepLiftsTheHold := fun _ t hstep =>
  ⟨fun hbusy => (engineTurn_of_engineStep hstep).trans (congrArg _ (liftHeld_of_busy t hbusy)),
    fun hready => (engineTurn_of_engineStep hstep).trans (congrArg _ (liftHeld_of_ready t hready))⟩

end Sys2Proof.Machine
end

section
/-! The laws of the checksum (spec/41_frame_codec.md R140 to R142, R152, R153), the round trip of a frame (R148), and the ACK beside
the frames (R150, R151). -/

namespace Sys2Proof.Machine

/-! ## The checksum -/

/-- Exactly the checksum completes a sequence to a zero sum (R142). -/
theorem byteSum_add_mod_eq_zero_iff (s : List Byte) (c : Byte) : (byteSum s + c.toNat) % 256 = 0 ↔ c = checksum s := by
  rw [byteSum_add_mod_iff, ← checksum_toNat, BitVec.toNat_inj]

/-- Settles O7: both length checks read a header as its length bytes and one byte more. -/
theorem checksumIsTheOnlyByteThatSumsToZero : Obligations.ChecksumIsTheOnlyByteThatSumsToZero :=
  ⟨fun s => (byteSum_add_mod_eq_zero_iff s _).2 rfl, byteSum_add_mod_eq_zero_iff,
    fun len => sumsToZero_append_iff [len], fun lenh lenl => sumsToZero_append_iff [lenh, lenl]⟩

/-- The checksum is the negated sum of the bytes (R140, R15). -/
theorem checksum_eq_neg (s : List Byte) : checksum s = -BitVec.ofNat 8 (byteSum s) := by
  rw [checksum, zero_sub, BitVec.ofInt_neg, BitVec.ofInt_natCast]

@[simp] theorem checksum_nil : checksum [] = 0 := rfl

theorem checksum_cons (x : Byte) (s : List Byte) : checksum (x :: s) = -x + checksum s := by
  rw [checksum_eq_neg, checksum_eq_neg, byteSum_cons, BitVec.ofNat_add, neg_add, BitVec.ofNat_toNat, BitVec.setWidth_eq]

theorem checksum_append (a b : List Byte) : checksum (a ++ b) = checksum a + checksum b := by
  induction a with
  | nil => rw [List.nil_append, checksum_nil, zero_add]
  | cons x a ih => rw [List.cons_append, checksum_cons, checksum_cons, ih, add_assoc]

/-- Settles O8. -/
theorem checksumIsAdditive : Obligations.ChecksumIsAdditive := checksum_append

/-- Settles O9: the bytes around the changed one add the same to both checksums, so they cancel. -/
theorem checksumCatchesASingleByteCorruption : Obligations.ChecksumCatchesASingleByteCorruption := by
  intro a b x y hxy h
  rw [checksum_append, checksum_append, checksum_cons, checksum_cons, add_right_inj, add_left_inj, neg_inj] at h
  exact hxy h

/-- Settles O10: the length checksums are the general formula at one byte and at two. -/
theorem checksumValues : Obligations.ChecksumValues := by
  refine ⟨checksum_toNat, rfl, rfl, rfl, rfl, fun len => ?_, fun lenh lenl => ?_⟩
  · have := len.isLt
    rw [checksum_toNat, byteSum_cons, byteSum_nil]
    omega
  · have := lenh.isLt
    have := lenl.isLt
    rw [checksum_toNat, byteSum_cons, byteSum_cons, byteSum_nil]
    omega

/-! ## The round trip, and the ACK -/

/-- Settles O12: an encoded frame has a layout `DECODE_FRAME` accepts (O11, O15). -/
theorem frameRoundTrip : Obligations.FrameRoundTrip := by
  intro p cap hmax hcap
  refine (acceptedFrameIsWellFormed _ _ _ _).2 ⟨hcap, ?_⟩
  obtain ⟨hnormal, hextended⟩ := encodedFrameLayout p hmax
  rw [List.take_length]
  obtain hshort | hlong := Nat.lt_or_ge p.length 256
  · obtain ⟨n, hn, hframe⟩ := hnormal (Nat.le_of_lt_succ hshort)
    exact .inl ⟨n, hn, (encodeFrame_length p).trans (congrArg _ (if_pos (Nat.le_of_lt_succ hshort))), hframe⟩
  · obtain ⟨hi, lo, hlen, hframe⟩ := hextended hlong
    exact .inr ⟨hi, lo, hlen, (encodeFrame_length p).trans (congrArg _ (if_neg (Nat.not_le.2 hlong))), hframe⟩

/-- Settles O14: the ACK has the preamble and no extended marker, and its bytes 3 and 4, `00 FF`, do not sum to zero. -/
theorem ackIsNoFrame : Obligations.AckIsNoFrame := by
  intro cap rest
  have hlong : ¬(ackPattern ++ rest).length < 5 := by
    rw [List.length_append, ackPattern_length]
    omega
  have hmarker : ¬((0x00 : Byte) = markerByte ∧ (0xFF : Byte) = markerByte) := by decide
  have hsum : ¬sumsToZero [0x00, 0xFF] = true := by decide
  exact (if_neg hlong).trans ((if_neg (not_not.2 rfl)).trans ((if_neg hmarker).trans (if_neg hsum)))

/-- No encoded frame begins with the ACK: its decoder accepts the one and refuses the other (R148, R151). -/
theorem encodeFrame_take_six_ne_ackPattern {p : List Byte} (hmax : p.length ≤ payloadMax) :
    (encodeFrame p).take 6 ≠ ackPattern := by
  intro hack
  have hok : decodeFrame (encodeFrame p) 0xFFFF = .ok p (encodeFrame p).length := frameRoundTrip p 0xFFFF hmax hmax
  rw [← List.take_append_drop 6 (encodeFrame p), hack, ackIsNoFrame] at hok
  cases hok

/-- Settles O13: a frame that was the ACK would begin with it. -/
theorem noEncodedFrameIsAnAck : Obligations.NoEncodedFrameIsAnAck := by
  intro p hmax
  have hfront := encodeFrame_take_six_ne_ackPattern hmax
  have hne : encodeFrame p ≠ ackPattern := fun h => hfront (by rw [h]; rfl)
  exact ⟨(isAckFrame_eq_decide _).trans (decide_eq_false hne), hfront⟩

end Sys2Proof.Machine
end

section
/-! The engine's steps around a block read (spec/42_link_engine.md): the acceptance of an exchange (R170), the sending step (R171), a
poll that leaves its block short (R174, R185), the cancel (R186, R187), and the step an engine does not have (R197). -/

namespace Sys2Proof.Machine

/-! ## Acceptance, sending, and the cancel -/

theorem requireCapacity_of_le {maxLen : U16} (h : maxLen.toNat ≤ respBufCap) (go : Host.Outcome State Fault Refusal) :
    requireCapacity maxLen go = go := if_pos h

/-- Settles O25: a ready block passes the readiness check, and the capacity its own. -/
theorem exchangeIsAccepted : Obligations.ExchangeIsAccepted := fun _ _ _ hready hmax =>
  (whenReady_ready hready).trans (requireCapacity_of_le hmax _)

theorem engineStep_sending {s : State} (hs : s.fsm = .sending) : engineStep s = .next (sendCommand s) := by
  simp only [engineStep, hs]

/-- Settles O26: `sendCommand` is the flush, the write and the begin of the read, in one record update. -/
theorem sendingStepSendsTheCommandFrame : Obligations.SendingStepSendsTheCommandFrame := fun _ hs =>
  engineStep_sending hs

theorem engineStep_cancelling {s : State} (hs : s.fsm = .cancelling) :
    engineStep s = .next (if cancelSettled s then cancelEnd s else s) := by
  simp only [engineStep, hs]

/-- "`elapsed(TS) >= CANCEL_SETTLE_MS`" (R186, R247). -/
theorem cancelSettled_iff (s : State) : cancelSettled s = true ↔ s.params.cancelSettleMs ≤ (s.clk - s.ts).toNat :=
  decide_eq_true_iff

/-- The status word of an exchange that ends in a timeout, with the reason's code in bits 15:8 (R35). -/
theorem statusWord_timeout (s : State) (r : Reason) :
    statusWord { s with kind := .timeout, reason := r, fsm := .failed } =
      (0x00080002 : U32) ||| (r.code.setWidth 32 <<< 8) := by
  simp only [statusWord]
  cases r <;> rfl

/-- What the end of a cancel leaves and answers (R187, R230). -/
theorem fail_timeout_eq (s : State) (r : Reason) : fail s .timeout r =
    { s with kind := .timeout, reason := r, fsm := .failed,
             replies := s.replies ++ [⟨.exchange, .u32 ((0x00080002 : U32) ||| (r.code.setWidth 32 <<< 8))⟩] } := by
  rw [← statusWord_timeout s r]
  rfl

/-- Settles O38: the sleep decides between no step and the end of the cancel. -/
theorem cancelSleepsThenFlushesAndFails : Obligations.CancelSleepsThenFlushesAndFails := by
  intro s hs
  rw [engineStep_cancelling hs]
  refine ⟨fun hsleeps => ?_, fun hsettled => ?_⟩
  · rw [if_neg (mt (cancelSettled_iff s).1 (Nat.not_le.2 hsleeps))]
  · rw [if_pos ((cancelSettled_iff s).2 hsettled), cancelEnd_eq, fail_timeout_eq]
    rfl

/-! ## A poll that leaves its block short -/

/-- A short poll takes every buffered byte. -/
theorem rx_take_of_short {s : State} (h : ¬ blockBuffered s) : s.rx.take (takeCount s) = s.rx := by
  rw [takeCount_of_short h, List.take_length]

theorem rx_drop_of_short {s : State} (h : ¬ blockBuffered s) : s.rx.drop (takeCount s) = [] := by
  rw [takeCount_of_short h, List.drop_length]

/-- With the window open the clock check changes nothing (R174). -/
theorem clockCheck_of_open {s : State} (hw : windowExpired s = false) : clockCheck s = s := by
  unfold clockCheck
  rw [hw]
  split <;> rfl

/-- A short poll changes the three buffers, `RX` and `CNT` at most, and leaves `RX` empty. -/
theorem afterBytes_eq_of_short {s : State} (h : ¬ blockBuffered s) : afterBytes s =
    { s with hb := (afterBytes s).hb, tb := (afterBytes s).tb, resp := (afterBytes s).resp, rx := [],
             cnt := (afterBytes s).cnt } := by
  rw [← rx_drop_of_short h]
  exact afterBytes_eq s

/-- A short poll counts every buffered byte. -/
theorem afterBytes_cnt_of_short {s : State} (hr : ReadAgrees s) (hf : s.fsm.timeoutReason?.isSome)
    (h : ¬ blockBuffered s) : (afterBytes s).cnt.toNat = s.cnt.toNat + s.rx.length := by
  rw [afterBytes_cnt_toNat (Nat.le_of_lt (cnt_lt_need hr hf)), takeCount_of_short h]

/-- A short poll stores every buffered byte. -/
theorem afterBytes_stored_of_short {s : State} (hi : Inv s) (hf : s.fsm.timeoutReason?.isSome)
    (h : ¬ blockBuffered s) : BytesStored s (afterBytes s) s.rx := by
  have hstored := afterBytes_stored (takeCount_fits hi.maxLen_fits hi.read hf)
  rwa [rx_take_of_short h] at hstored

/-- Settles O27: a short poll in an open window is its taking of bytes alone. -/
theorem shortPollKeepsReading : Obligations.ShortPollKeepsReading := by
  intro s hi hf hshort hopen
  refine ⟨afterBytes s, ?_, afterBytes_eq_of_short hshort, afterBytes_cnt_of_short hi.read hf hshort,
    afterBytes_stored_of_short hi hf hshort, ?_⟩
  · rw [engineStep_of_short hi.maxLen_fits hi.read hf hshort,
      clockCheck_of_open ((afterBytes_windowExpired s).trans hopen)]
  · rw [received_afterBytes hi.maxLen_fits hi.read hf, rx_take_of_short hshort]

/-- Settles O28: a short poll in an expired window is its taking of bytes, then the cancel entry. -/
theorem expiredPollEntersTheCancel : Obligations.ExpiredPollEntersTheCancel := by
  intro s r hi hr hshort hexpired
  have hf : s.fsm.timeoutReason?.isSome := by rw [hr]; rfl
  have hstored := afterBytes_stored_of_short hi hf hshort
  refine ⟨cancelEntry (afterBytes s) r, ?_, ?_, afterBytes_cnt_of_short hi.read hf hshort,
    ⟨hstored.hb, hstored.tb, hstored.resp⟩⟩
  · rw [engineStep_of_short hi.maxLen_fits hi.read hf hshort, clockCheck_of_expired ((afterBytes_fsm s).symm ▸ hr)
      ((afterBytes_windowExpired s).trans hexpired)]
  · calc cancelEntry (afterBytes s) r
      _ = cancelEntry { s with hb := (afterBytes s).hb, tb := (afterBytes s).tb, resp := (afterBytes s).resp, rx := [],
                               cnt := (afterBytes s).cnt } r := congrArg (cancelEntry · r) (afterBytes_eq_of_short hshort)
      _ = _ := rfl

/-! ## Steps an engine does not have, and how a protocol error leaves the link -/

/-- In a reading state the engine is enabled when bytes are buffered or the window has expired (R197). -/
theorem engineEnabled_reading {s : State} (hf : s.fsm.timeoutReason?.isSome) :
    engineEnabled s = (!s.rx.isEmpty || windowExpired s) := by
  unfold engineEnabled
  cases hs : s.fsm with
  | idle | sending | done | failed | cancelling => rw [hs] at hf; cases hf
  | awaitingAck | awaitingResponseHeader | awaitingResponseLength | awaitingPayload | awaitingTrailer => rfl

/-- A disabled poll finds `RX` empty and the window open. -/
theorem engineStep_reading_disabled {s : State} (hr : ReadAgrees s) (hf : s.fsm.timeoutReason?.isSome)
    (hoff : engineEnabled s = false) : engineStep s = .next s := by
  rw [engineEnabled_reading hf, Bool.or_eq_false_iff, Bool.not_eq_false', List.isEmpty_iff] at hoff
  obtain ⟨hempty, hopen⟩ := hoff
  have hshort : s.cnt ≠ s.need := BitVec.ne_of_lt (BitVec.lt_def.2 (cnt_lt_need hr hf))
  rw [engineStep_reading hf, poll_of_empty hempty, afterTake, if_neg hshort, clockCheck_of_open hopen]

/-- Settles O40: a ready engine has no step, a sleeping cancel waits, and a poll with nothing to take in an open window finds its
block as short as before. -/
theorem disabledEngineStepChangesNothing : Obligations.DisabledEngineStepChangesNothing := by
  intro s hi hoff
  by_cases hf : s.fsm.timeoutReason?.isSome
  · exact engineStep_reading_disabled hi.read hf hoff
  · unfold engineEnabled at hoff
    unfold engineStep
    cases hs : s.fsm <;> simp only [hs] at hoff hf ⊢
    case sending => cases hoff
    case cancelling => simp [hoff]
    case awaitingAck | awaitingResponseHeader | awaitingResponseLength | awaitingPayload | awaitingTrailer =>
      exact absurd rfl hf

/-- Settles O39: of the engine's steps only the check of a complete block ends an exchange with `PROTOCOL_ERROR`. -/
theorem protocolErrorNeverCancels : Obligations.ProtocolErrorNeverCancels := by
  intro s t hi h hs ht hk
  obtain ⟨rfl, -, -⟩ | ⟨-, rfl⟩ | ⟨hf, hb, rfl⟩ | ⟨hf, -, rfl⟩ | ⟨-, -, rfl⟩ := engineStep_next hi.maxLen_fits hi.read h
  · exact absurd ht hs
  · cases ht
  · refine ⟨by simp, ?_, by simp, (complete_failed _ (by simpa using hf) ht).2⟩
    rw [complete_rx, afterBytes_rx, takeCount_of_buffered hb, rxAfterBlock]
  · obtain he | ⟨r, -, -, he⟩ := clockCheck_eq (afterBytes s) <;> rw [he] at ht
    · exact absurd ((afterBytes_fsm s).symm.trans ht) hs
    · cases ht
  · cases hk

end Sys2Proof.Machine
end

section
/-! The verdicts on a complete block (spec/42_link_engine.md R175 to R184): what each check decides, as a function of the block's
bytes, and where the block stands when its check runs. -/

namespace Sys2Proof.Machine

/-! ## The checks as functions of the block's bytes -/

/-- One element of a fixed buffer, read off its first bytes. -/
theorem vector_getElem_of_take {n k : Nat} {v : Vector Byte n} {b : List Byte} (he : v.toList.take k = b) {i : Nat}
    (hi : i < n) (hk : i < k) : b[i]? = some v[i] := by
  rw [← he, List.getElem?_take_of_lt hk]
  simp [hi]

/-- The ACK check (R176) on the first six bytes of `HB`. -/
theorem ackCheck_of_bytes {u : State} {b : List Byte} (hbytes : u.hb.toList.take 6 = b) :
    ackCheck u = if b = ackPattern then beginRead u .awaitingResponseHeader 5 .hb0
      else fail u .protocolError .peAckMismatch := by
  simp only [ackCheck, hbytes, isAckFrame_eq_decide, decide_eq_true_eq, protocolError_eq]

/-- The sum of the length byte and the LCS (R99). -/
theorem sumsToZero_two (d e : Byte) : sumsToZero [d, e] = true ↔ (d.toNat + e.toNat) % 256 = 0 := by
  simp [sumsToZero_iff]

/-- The preamble check, the form selection and the normal length check (R177 to R179) on the header `a b c d e`. -/
theorem preambleCheck_of_bytes {u : State} {a b c d e : Byte} (hbytes : u.hb.toList.take 5 = [a, b, c, d, e]) :
    preambleCheck u =
      if [a, b, c] = preamble then
        if d = markerByte ∧ e = markerByte then
          beginRead { u with form := .extended } .awaitingResponseLength 3 .hb5
        else if (d.toNat + e.toNat) % 256 = 0 then
          capacityCheck { u with form := .normal, declLen := d.setWidth 16 }
        else fail { u with form := .normal } .protocolError .peLcsNormal
      else fail u .protocolError .pePreamble := by
  have hthree : u.hb.toList.take 3 = [a, b, c] := by
    rw [show 3 = min 3 5 from rfl, ← List.take_take, hbytes]
    rfl
  have hd : u.hb[3] = d := Option.some.inj (vector_getElem_of_take hbytes (by omega) (by omega)).symm
  have he : u.hb[4] = e := Option.some.inj (vector_getElem_of_take hbytes (by omega) (by omega)).symm
  simp only [preambleCheck, formSelection, normalLengthCheck, hthree, hd, he, sumsToZero_two, protocolError_eq]

/-- The trailer check (R184) on the trailer `d p`. -/
theorem trailerCheck_of_bytes {u : State} {d p : Byte} (hbytes : u.tb.toList = [d, p]) :
    trailerCheck u =
      if d ≠ checksum (respBytes u u.declLen.toNat) then fail u .protocolError .peDcs
      else if p ≠ postamble then fail u .protocolError .pePostamble
      else succeed u := by
  have htake : u.tb.toList.take 2 = [d, p] := by rw [hbytes]; rfl
  have hd : u.tb[0] = d := Option.some.inj (vector_getElem_of_take htake (by omega) (by omega)).symm
  have hp : u.tb[1] = p := Option.some.inj (vector_getElem_of_take htake (by omega) (by omega)).symm
  simp only [trailerCheck, hd, hp, protocolError_eq]

/-! ## The block read of each phase (R176 to R183) -/

theorem read_of_awaitingAck {s : State} (hr : ReadAgrees s) (hs : s.fsm = .awaitingAck) :
    s.dst = .hb0 ∧ s.need = 6 := by
  unfold ReadAgrees at hr
  simp only [hs] at hr
  obtain ⟨hdst, hneed, -⟩ := hr
  exact ⟨hdst, hneed⟩

theorem read_of_awaitingResponseHeader {s : State} (hr : ReadAgrees s) (hs : s.fsm = .awaitingResponseHeader) :
    s.dst = .hb0 ∧ s.need = 5 := by
  unfold ReadAgrees at hr
  simp only [hs] at hr
  obtain ⟨hdst, hneed, -⟩ := hr
  exact ⟨hdst, hneed⟩

theorem read_of_awaitingTrailer {s : State} (hr : ReadAgrees s) (hs : s.fsm = .awaitingTrailer) :
    s.dst = .tb0 ∧ s.need = 2 := by
  unfold ReadAgrees at hr
  simp only [hs] at hr
  obtain ⟨hdst, hneed, -⟩ := hr
  exact ⟨hdst, hneed⟩

/-! ## Where the complete block stands -/

/-- A complete block read into the front of `HB` stands there, and the rest of `HB` is as before (R40). -/
theorem afterBytes_hb_of_front {s : State} (hi : Inv s) (hs : s.fsm = .awaitingAck ∨ s.fsm = .awaitingResponseHeader)
    (hdst : s.dst = .hb0) (hb : blockBuffered s) :
    (afterBytes s).hb.toList.take s.need.toNat = block s ∧
      (afterBytes s).hb.toList = block s ++ s.hb.toList.drop s.need.toNat := by
  have hf : s.fsm.timeoutReason?.isSome := by rcases hs with hs | hs <;> rw [hs] <;> rfl
  have hlt := cnt_lt_need hi.read hf
  have hfront : (afterBytes s).hb.toList.take s.need.toNat = block s := by
    rw [← received_of_buffered hi.maxLen_fits hi.read hf hb, received, afterBytes_fsm,
      afterBytes_cnt_of_buffered hi.read hf hb]
    rcases hs with hs | hs <;> rw [hs]
  have hrest : (afterBytes s).hb.toList.drop s.need.toNat = s.hb.toList.drop s.need.toNat := by
    rw [afterBytes_hb, if_pos hdst]
    refine setBytes_drop _ _ _ _ ?_
    rw [List.length_take, takeCount_of_buffered hb]
    omega
  exact ⟨hfront, by rw [← hfront, ← hrest, List.take_append_drop]⟩

/-- A poll that completes a block of `HB` changes `HB`, `RX` and `CNT`. -/
theorem afterBytes_eq_of_header {s : State} {n : U16} (hi : Inv s) (hf : s.fsm.timeoutReason?.isSome)
    (hread : s.dst = .hb0 ∧ s.need = n) (hb : blockBuffered s) :
    afterBytes s = { s with hb := (afterBytes s).hb, rx := rxAfterBlock s, cnt := n } := by
  obtain ⟨hdst, hneed⟩ := hread
  have hcnt := (afterBytes_cnt_of_buffered hi.read hf hb).trans hneed
  rw [rxAfterBlock, ← takeCount_of_buffered hb, ← hcnt]
  exact afterBytes_eq_header (.inl hdst)

/-- A poll that completes the trailer changes `TB`, `RX` and `CNT`. -/
theorem afterBytes_eq_of_trailer {s : State} (hi : Inv s) (hs : s.fsm = .awaitingTrailer) (hb : blockBuffered s) :
    afterBytes s = { s with tb := (afterBytes s).tb, rx := rxAfterBlock s, cnt := 2 } := by
  obtain ⟨hdst, hneed⟩ := read_of_awaitingTrailer hi.read hs
  have hcnt := (afterBytes_cnt_of_buffered hi.read (by rw [hs]; rfl) hb).trans hneed
  rw [rxAfterBlock, ← takeCount_of_buffered hb, ← hcnt]
  exact afterBytes_eq_trailer hdst

/-- The complete trailer fills `TB` (R40). -/
theorem afterBytes_tb_of_buffered {s : State} (hi : Inv s) (hs : s.fsm = .awaitingTrailer) (hb : blockBuffered s) :
    (afterBytes s).tb.toList = block s := by
  have hf : s.fsm.timeoutReason?.isSome := by rw [hs]; rfl
  have hcnt := afterBytes_cnt_of_buffered hi.read hf hb
  rw [(read_of_awaitingTrailer hi.read hs).2] at hcnt
  have hall : received (afterBytes s) = (afterBytes s).tb.toList := by
    unfold received
    simp only [afterBytes_fsm, hs, hcnt]
    exact List.take_of_length_le (by simp)
  rw [← hall, received_of_buffered hi.maxLen_fits hi.read hf hb]

/-- The written bytes of `RESP[0..n)` are what reads as `RESP[0..n)`. -/
theorem read?_eq_respBytes_getElem? {s : State} {n i : Nat} (hw : RespWritten s n) (hi : i < n) :
    Memory.read? s.resp i = (respBytes s n)[i]? := by
  obtain ⟨v, hv⟩ := Option.isSome_iff_exists.1 (hw i hi)
  rw [List.getElem?_eq_getElem (by simpa using hi), respBytes_getElem, respByte_of_read? hv, hv]

/-! ## The verdicts -/

theorem engineStep_ack {s : State} (hi : Inv s) (hs : s.fsm = .awaitingAck) (hb : blockBuffered s) :
    engineStep s = .next (ackCheck (afterBytes s)) := by
  rw [engineStep_of_buffered hi.maxLen_fits hi.read (by rw [hs]; rfl) hb, complete, afterBytes_fsm, hs]

/-- Settles O31: the ACK check compares the block, which stands in the first six bytes of `HB`. -/
theorem ackCheckVerdict : Obligations.AckCheckVerdict := by
  intro s hi hs hb
  have hread := read_of_awaitingAck hi.read hs
  obtain ⟨hfront, hall⟩ := afterBytes_hb_of_front hi (.inl hs) hread.1 hb
  rw [hread.2] at hfront hall
  refine ⟨(afterBytes s).hb, hall, ?_⟩
  rw [engineStep_ack hi hs hb, ackCheck_of_bytes hfront, afterBytes_eq_of_header hi (by rw [hs]; rfl) hread hb]
  refine ⟨fun hack => congrArg _ (if_pos hack), fun hbad => ?_⟩
  exact congrArg _ ((if_neg hbad).trans (fail_protocolError_eq _ _))

theorem engineStep_header {s : State} (hi : Inv s) (hs : s.fsm = .awaitingResponseHeader) (hb : blockBuffered s) :
    engineStep s = .next (preambleCheck (afterBytes s)) := by
  rw [engineStep_of_buffered hi.maxLen_fits hi.read (by rw [hs]; rfl) hb, complete, afterBytes_fsm, hs]

/-- The declared length of a normal header, as a number. -/
theorem setWidth_declLen_toNat (d : Byte) : (d.setWidth 16).toNat = d.toNat :=
  BitVec.toNat_setWidth_of_le (by decide)

/-- A sum check the marker bytes `FF FF` do not pass (R98). -/
theorem not_marker_of_sum {d e : Byte} (hsum : (d.toNat + e.toNat) % 256 = 0) :
    ¬(d = markerByte ∧ e = markerByte) := by
  rintro ⟨rfl, rfl⟩
  exact absurd hsum (by decide)

/-- Settles O32: each clause takes one branch at every check before it (R177 to R181). -/
theorem headerVerdict : Obligations.HeaderVerdict := by
  intro s a b c d e hi hs hb hblock
  have hread := read_of_awaitingResponseHeader hi.read hs
  obtain ⟨hfront, hall⟩ := afterBytes_hb_of_front hi (.inr hs) hread.1 hb
  rw [hread.2] at hfront hall
  refine ⟨(afterBytes s).hb, hall, ?_⟩
  rw [engineStep_header hi hs hb, preambleCheck_of_bytes (hfront.trans hblock),
    afterBytes_eq_of_header hi (by rw [hs]; rfl) hread hb]
  refine ⟨fun hpre => ?_, fun hpre hd he => ?_, fun hpre hmark hsum => ?_, fun hpre hsum hover => ?_,
    fun hpre hsum hpos hfits => ?_, fun hpre hsum hzero => ?_⟩
  · exact congrArg _ ((if_neg hpre).trans (fail_protocolError_eq _ _))
  · exact congrArg _ ((if_pos hpre).trans (if_pos ⟨hd, he⟩))
  · exact congrArg _ ((if_pos hpre).trans ((if_neg hmark).trans ((if_neg hsum).trans (fail_protocolError_eq _ _))))
  · refine congrArg _ ((if_pos hpre).trans ((if_neg (not_marker_of_sum hsum)).trans ((if_pos hsum).trans
      ((capacityCheck_of_over ?_).trans (fail_protocolError_eq _ _)))))
    rwa [BitVec.lt_def, setWidth_declLen_toNat]
  · refine congrArg _ ((if_pos hpre).trans ((if_neg (not_marker_of_sum hsum)).trans ((if_pos hsum).trans
      (capacityCheck_of_fits ?_ ?_))))
    · rwa [BitVec.le_def, setWidth_declLen_toNat]
    · rwa [BitVec.lt_def, setWidth_declLen_toNat]
  · obtain rfl : d = 0 := BitVec.eq_of_toNat_eq hzero
    exact congrArg _ ((if_pos hpre).trans ((if_neg (not_marker_of_sum hsum)).trans ((if_pos hsum).trans
      (capacityCheck_of_empty rfl))))

/-- Settles O34: the bytes received before and those the poll takes are one run of `RESP` from index 0 on. -/
theorem completePayloadIsInResp : Obligations.CompletePayloadIsInResp := by
  intro s hi hs hb
  have hf : s.fsm.timeoutReason?.isSome := by rw [hs]; rfl
  have hneed := need_eq_declLen hi.read hs
  have hcnt : (afterBytes s).cnt = s.declLen := (afterBytes_cnt_of_buffered hi.read hf hb).trans hneed
  refine ⟨(afterBytes s).resp, ?_, fun i => ?_⟩
  · rw [engineStep_of_buffered hi.maxLen_fits hi.read hf hb, complete, afterBytes_fsm, hs, enterTrailer,
      afterBytes_eq_payload ((dst_resp0_iff hi.read hf).2 hs), takeCount_of_buffered hb]
    rfl
  · split
    next hlow =>
      have hw := respWritten_afterBytes hi hs
      rw [hcnt] at hw
      rw [read?_eq_respBytes_getElem? hw hlow, ← received_of_buffered hi.maxLen_fits hi.read hf hb, received,
        afterBytes_fsm, hs, hcnt]
    next hhigh =>
      exact (read?_afterBytes hi.read hf i).resolve_right fun hlow => hhigh hlow.2

theorem engineStep_trailer {s : State} (hi : Inv s) (hs : s.fsm = .awaitingTrailer) (hb : blockBuffered s) :
    engineStep s = .next (trailerCheck (afterBytes s)) := by
  rw [engineStep_of_buffered hi.maxLen_fits hi.read (by rw [hs]; rfl) hb, complete, afterBytes_fsm, hs]

/-- What a success leaves and answers (R190). -/
theorem succeed_eq (s : State) : succeed s =
    { s with respLen := s.declLen, kind := .ok, reason := .none, fsm := .done,
             replies := s.replies ++ [⟨.exchange, .u32 0x00070001⟩] } := by
  have hword : statusWord { s with respLen := s.declLen, kind := .ok, reason := .none, fsm := .done } = 0x00070001 := by
    simp only [statusWord]
    rfl
  rw [← hword]
  rfl

/-- Settles O35: the trailer check reads `TB`, which holds the block, and `RESP`, which the trailer read leaves alone. -/
theorem trailerVerdict : Obligations.TrailerVerdict := by
  intro s d p hi hs hb hblock
  have htb := afterBytes_tb_of_buffered hi hs hb
  refine ⟨(afterBytes s).tb, htb, ?_⟩
  rw [engineStep_trailer hi hs hb, trailerCheck_of_bytes (htb.trans hblock), afterBytes_eq_of_trailer hi hs hb]
  refine ⟨fun hdcs => ?_, fun hdcs hpost => ?_, fun hdcs hpost => ?_⟩
  · exact congrArg _ ((if_pos hdcs).trans (fail_protocolError_eq _ _))
  · exact congrArg _ ((if_neg (not_not.2 hdcs)).trans ((if_pos hpost).trans (fail_protocolError_eq _ _)))
  · exact congrArg _ ((if_neg (not_not.2 hdcs)).trans ((if_neg (not_not.2 hpost)).trans (succeed_eq _)))

end Sys2Proof.Machine
end

section
/-! An exchange in flight (spec/42_link_engine.md R77, R192): the induction over its steps, said once for any property of the bytes
taken and the state reached; the table of `STATE` (R192); and what one exchange sends (R194). -/

namespace Sys2Proof.Machine

/-! ## The induction over an exchange in flight -/

/-- `s` with other contents outside the registers of the exchange: the link's queue, the clock, the answers, and the schedule. -/
def State.withOutside (s : State) (rx : List Byte) (clk : U32) (replies : List Reply) (held : List Packet)
    (agenda : List Turn) : State :=
  { s with rx := rx, clk := clk, replies := replies, held := held, agenda := agenda }

/-- What a property of an exchange in flight has to meet to hold all along it: it does not speak of what lies outside the exchange,
every engine step keeps it, and it says nothing of a block that a reset has made idle. `b` are the bytes taken so far. -/
structure KeptInFlight (P : List Byte → State → Prop) : Prop where
  outside : ∀ {b : List Byte} {t : State}, P b t → ∀ rx clk replies held agenda,
    P b (t.withOutside rx clk replies held agenda)
  engine : ∀ {b : List Byte} {t u : State}, Inv t → t.fsm.busy = true → P b t → engineStep t = .next u →
    P (b ++ engineTakes t) u
  reset : ∀ {b : List Byte} {t : State}, t.fsm = .idle → P b t

variable {P : List Byte → State → Prop}

theorem KeptInFlight.liftHeld (hP : KeptInFlight P) {b : List Byte} {t : State} (h : P b t) : P b (liftHeld t) := by
  cases hb : t.fsm.busy with
  | true => rwa [liftHeld_of_busy t hb]
  | false => rw [liftHeld_of_ready t hb]; exact hP.outside h ..

theorem KeptInFlight.engineTurn (hP : KeptInFlight P) {b : List Byte} {t u : State} (hi : Inv t)
    (hbusy : t.fsm.busy = true) (h : P b t) (hu : engineTurn t = .next u) : P (b ++ engineTakes t) u := by
  obtain ⟨v, hv, rfl⟩ := engineTurn_next hu
  exact hP.liftHeld (hP.engine hi hbusy h hv)

/-- A due cancel sequence is the engine's own step, and takes nothing (R115, R185). -/
theorem engineStep_of_cancelDue {t : State} (h : cancelDue t = true) :
    engineStep t = .next (clockCheck t) ∧ engineTakes t = [] := by
  obtain ⟨hf, hrx, hshort, hexpired⟩ := (cancelDue_iff t).1 h
  obtain ⟨r, hr⟩ := Option.isSome_iff_exists.1 hf
  refine ⟨?_, by simp [engineTakes, hr, hrx]⟩
  rw [(cancelSequenceEntersTheCancel t r hr hrx hshort hexpired).2, execCancelSequence_of_due h]

theorem KeptInFlight.exec (hP : KeptInFlight P) {b : List Byte} {t u : State} {i : Instr} (hi : Inv t)
    (hbusy : t.fsm.busy = true) (h : P b t) (hu : exec i t = .next u) : P b u := by
  obtain ⟨-, -, rfl⟩ | ⟨hready, -⟩ | ⟨hready, -⟩ | ⟨op, r, rfl⟩ | ⟨x, rfl⟩ | ⟨-, hdue, rfl⟩ | rfl := exec_next hu
  · exact hP.outside h ..
  · cases hbusy.symm.trans hready
  · cases hbusy.symm.trans hready
  · exact hP.outside h ..
  · exact hP.outside h ..
  · obtain ⟨hstep, htakes⟩ := engineStep_of_cancelDue hdue
    simpa [htakes] using hP.engine hi hbusy h hstep
  · exact h

theorem KeptInFlight.runPacket (hP : KeptInFlight P) {b : List Byte} {t u : State} {p : Packet} (hi : Inv t)
    (hbusy : t.fsm.busy = true) (h : P b t) (hu : runPacket p t = .next u) : P b u := by
  obtain ⟨i, -, hx⟩ | ⟨x, rfl⟩ := runPacket_next hu
  · exact hP.exec hi hbusy h hx
  · exact hP.outside h ..

/-- Every step from a busy state keeps such a property: a packet and the clock act outside the exchange, the engine takes its step,
and a reset ends the exchange. -/
theorem KeptInFlight.step (hP : KeptInFlight P) {b : List Byte} {t u : State} (hi : Inv t) (hbusy : t.fsm.busy = true)
    (h : P b t) (hu : step t = .next u) : P (b ++ nextTakes t) u := by
  have htaken (rest : List Turn) : P b { t with agenda := rest } := hP.outside h ..
  obtain ⟨p, rest, ha, hx⟩ | ⟨rest, ha, hx⟩ | ⟨ha, hon, hx⟩ | ⟨rest, ha, rfl⟩ | ⟨ha, hoff, rfl⟩ | ⟨rest, -, rfl⟩ |
    ⟨k, rest, -, rfl⟩ := step_next hu
  · have hnone : b ++ nextTakes t = b := by simp [nextTakes, ha]
    rw [hnone]
    exact hP.runPacket (hi.taken rest) hbusy (htaken rest) hx
  · have htakes : nextTakes t = engineTakes { t with agenda := rest } := by simp only [nextTakes, ha]; rfl
    rw [htakes]
    exact hP.engineTurn (hi.taken rest) hbusy (htaken rest) hx
  · have htakes : nextTakes t = engineTakes t := by simp only [nextTakes, ha, hon, if_true]
    rw [htakes]
    exact hP.engineTurn hi hbusy h hx
  · have hnone : b ++ nextTakes t = b := by simp [nextTakes, ha]
    rw [hnone]
    exact hP.outside h ..
  · have hnone : b ++ nextTakes t = b := by simp [nextTakes, ha, hoff]
    rw [hnone]
    exact hP.outside h ..
  · exact hP.reset rfl
  · exact hP.reset rfl

/-- The invariant holds all along an exchange in flight. -/
theorem InFlight.inv {s t : State} {b : List Byte} (h : InFlight s b t) (hi : Inv s) : Inv t := by
  induction h with
  | start => exact hi
  | next _ _ hstep ih => exact everyStepKeepsTheInvariant _ _ ih hstep

/-- The induction: such a property holds wherever an exchange in flight gets to, if it holds where the exchange is now. -/
theorem InFlight.keeps {s t : State} {b : List Byte} (h : InFlight s b t) (hP : KeptInFlight P) (hi : Inv s)
    (hstart : P [] s) : P b t := by
  induction h with
  | start => exact hstart
  | next hflight hbusy hstep ih => exact hP.step (hflight.inv hi) hbusy ih hstep

/-! ## The table of `STATE` -/

/-- The clock check moves `STATE` at most from a reading state to the cancel. -/
theorem clockCheck_fsm (s : State) : (clockCheck s).fsm = s.fsm ∨ s.fsm.mayBecome (clockCheck s).fsm = true := by
  obtain he | ⟨r, hr, -, he⟩ := clockCheck_eq s <;> rw [he]
  · exact .inl rfl
  · rw [cancelEntry_fsm]
    cases hs : s.fsm <;> rw [hs] at hr <;> cases hr <;> exact .inr rfl

/-- An engine step moves `STATE` along the table (R192). -/
theorem engineStep_fsm {s t : State} (hi : Inv s) (h : engineStep s = .next t) :
    t.fsm = s.fsm ∨ s.fsm.mayBecome t.fsm = true := by
  obtain ⟨rfl, -, -⟩ | ⟨hs, rfl⟩ | ⟨hf, -, rfl⟩ | ⟨-, -, rfl⟩ | ⟨hs, -, rfl⟩ := engineStep_next hi.maxLen_fits hi.read h
  · exact .inl rfl
  · exact .inr (by rw [hs]; rfl)
  · have hbecomes := (complete_fsm (afterBytes s) (by simpa using hf)).1
    rw [afterBytes_fsm] at hbecomes
    exact .inr hbecomes
  · simpa using clockCheck_fsm (afterBytes s)
  · exact .inr (by rw [hs]; rfl)

theorem engineTurn_fsm {s t : State} (hi : Inv s) (h : engineTurn s = .next t) :
    t.fsm = s.fsm ∨ s.fsm.mayBecome t.fsm = true := by
  obtain ⟨u, hu, rfl⟩ := engineTurn_next h
  rw [liftHeld_fsm]
  exact engineStep_fsm hi hu

/-- A packet moves `STATE` along the table: an accepted `EXCHANGE` from a ready state, the cancel sequence from a reading one. -/
theorem runPacket_fsm {p : Packet} {s t : State} (h : runPacket p s = .next t) :
    t.fsm = s.fsm ∨ s.fsm.mayBecome t.fsm = true := by
  obtain ⟨i, -, hx⟩ | ⟨b, rfl⟩ := runPacket_next h
  · obtain ⟨-, -, rfl⟩ | ⟨-, v, -, rfl⟩ | ⟨hready, cmd, maxLen, -, -, rfl⟩ | ⟨op, r, rfl⟩ | ⟨x, rfl⟩ | ⟨-, -, rfl⟩ | rfl :=
      exec_next hx
    · exact .inl rfl
    · exact .inl rfl
    · refine .inr ?_
      cases hs : s.fsm <;> rw [hs] at hready <;> cases hready <;> rfl
    · exact .inl rfl
    · exact .inl rfl
    · exact clockCheck_fsm s
    · exact .inl rfl
  · exact .inl rfl

/-- Settles O49, turn by turn. -/
theorem stateFollowsTheTransitionTable : Obligations.StateFollowsTheTransitionTable := by
  intro s t hi h
  obtain ⟨p, rest, -, hx⟩ | ⟨rest, -, hx⟩ | ⟨-, -, hx⟩ | ⟨rest, -, rfl⟩ | ⟨-, -, rfl⟩ | ⟨rest, ha, rfl⟩ |
    ⟨k, rest, ha, rfl⟩ := step_next h
  · exact (runPacket_fsm hx).imp_right .inl
  · exact (engineTurn_fsm (hi.taken rest) hx).imp_right .inl
  · exact (engineTurn_fsm hi hx).imp_right .inl
  · exact .inl rfl
  · exact .inl rfl
  · exact .inr (.inr ⟨rfl, _, rest, ha, rfl⟩)
  · exact .inr (.inr ⟨rfl, _, rest, ha, rfl⟩)

/-! ## What one exchange sends -/

/-- What `TX` holds when an exchange that began to send in `s` has got to `t`: the command frame from the sending step on, and
the cancel's 6 bytes behind it from the cancel entry on (R194). -/
def SentSince (s t : State) : Prop :=
  match t.fsm with
  | .idle => True
  | .sending => t.cmd = s.cmd ∧ t.tx = s.tx
  | .cancelling => t.tx = s.tx ++ encodeFrame s.cmd ++ ackPattern
  | .failed => (t.kind = .protocolError → t.tx = s.tx ++ encodeFrame s.cmd) ∧
      (t.kind = .timeout → t.tx = s.tx ++ encodeFrame s.cmd ++ ackPattern)
  | _ => t.tx = s.tx ++ encodeFrame s.cmd

/-- While a block is read the frame stands on `TX` and nothing behind it. -/
theorem sentSince_reading {s t : State} (hf : t.fsm.timeoutReason?.isSome) :
    SentSince s t ↔ t.tx = s.tx ++ encodeFrame s.cmd := by
  unfold SentSince
  cases hs : t.fsm with
  | idle | sending | done | failed | cancelling => exact absurd hf (by rw [hs]; nofun)
  | awaitingAck | awaitingResponseHeader | awaitingResponseLength | awaitingPayload | awaitingTrailer => exact Iff.rfl

/-- No block read leads back to the sending step (R192). -/
theorem mayBecome_sending_of_reading {f : FsmState} (hf : f.timeoutReason?.isSome) : f.mayBecome .sending = false := by
  cases f with
  | idle | sending | done | failed | cancelling => cases hf
  | awaitingAck | awaitingResponseHeader | awaitingResponseLength | awaitingPayload | awaitingTrailer => rfl

/-- The check of a complete block sends nothing (R189). -/
theorem sentSince_complete {s u : State} (hf : u.fsm.timeoutReason?.isSome)
    (htx : u.tx = s.tx ++ encodeFrame s.cmd) : SentSince s (complete u) := by
  obtain ⟨htable, hcancel, -⟩ := complete_fsm u hf
  have htx' : (complete u).tx = s.tx ++ encodeFrame s.cmd := (complete_tx u).trans htx
  unfold SentSince
  cases hs : (complete u).fsm with
  | idle => trivial
  | sending => rw [hs, mayBecome_sending_of_reading hf] at htable; cases htable
  | cancelling => exact absurd hs hcancel
  | failed =>
    refine ⟨fun _ => htx', fun hk => ?_⟩
    cases hk.symm.trans (complete_failed u hf hs).1
  | awaitingAck | awaitingResponseHeader | awaitingResponseLength | awaitingPayload | awaitingTrailer | done => exact htx'

/-- The clock check sends the cancel's 6 bytes or nothing (R185). -/
theorem sentSince_clockCheck {s u : State} (hf : u.fsm.timeoutReason?.isSome)
    (htx : u.tx = s.tx ++ encodeFrame s.cmd) : SentSince s (clockCheck u) := by
  obtain he | ⟨r, -, -, he⟩ := clockCheck_eq u <;> rw [he]
  · exact (sentSince_reading hf).2 htx
  · exact congrArg (· ++ ackPattern) htx

theorem sentSince_keptInFlight (s : State) : KeptInFlight fun _ t => SentSince s t where
  outside := fun h _ _ _ _ _ => h
  engine := by
    intro _ t u hi _ h hu
    obtain ⟨rfl, -, -⟩ | ⟨hs, rfl⟩ | ⟨hf, -, rfl⟩ | ⟨hf, -, rfl⟩ | ⟨hs, -, rfl⟩ :=
      engineStep_next hi.maxLen_fits hi.read hu
    · exact h
    · simp only [SentSince, hs] at h
      obtain ⟨hcmd, htx⟩ := h
      show t.tx ++ encodeFrame t.cmd = s.tx ++ encodeFrame s.cmd
      rw [htx, hcmd]
    · exact sentSince_complete (by simpa using hf) ((afterBytes_tx t).trans ((sentSince_reading hf).1 h))
    · exact sentSince_clockCheck (by simpa using hf) ((afterBytes_tx t).trans ((sentSince_reading hf).1 h))
    · simp only [SentSince, hs] at h
      exact ⟨nofun, fun _ => h⟩
  reset := fun hs => by simp only [SentSince, hs]

/-- Settles O54: the sending step appends the frame, and only a timeout the cancel. -/
theorem bytesSentByOneExchange : Obligations.BytesSentByOneExchange := by
  intro s t b hi hs hflight
  have h : SentSince s t := hflight.keeps (sentSince_keptInFlight s) hi (by simp [SentSince, hs])
  refine ⟨fun ht => ?_, fun ht => ?_, fun ht => ?_⟩ <;> simp only [SentSince, ht] at h
  · exact h
  · exact h.1
  · exact h.2

end Sys2Proof.Machine
end

section
/-! `DECODE_FRAME` along a growing run of bytes (spec/41_frame_codec.md R146, R147): its verdict at each point where the engine stops. -/

namespace Sys2Proof.Machine

/-! ## The header -/

/-- Fewer bytes than a normal header are a truncated frame. -/
theorem decodeFrame_of_short {s : List Byte} (h : s.length < 5) (cap : U16) : decodeFrame s cap = .err .truncated :=
  if_pos h

/-- The checks on the first five bytes, in the order of R147. -/
theorem decodeFrame_five (a b c d e : Byte) (r : List Byte) (cap : U16) :
    decodeFrame (a :: b :: c :: d :: e :: r) cap =
      if [a, b, c] ≠ preamble then .err .pePreamble
      else if d = markerByte ∧ e = markerByte then
        if r.length < 3 then .err .truncated
        else if sumsToZero [byteAt r 0, byteAt r 1, byteAt r 2] then
          decodeBody (a :: b :: c :: d :: e :: r) cap.toNat 8 (extendedLength (byteAt r 0) (byteAt r 1))
        else .err .peLcsExtended
      else if sumsToZero [d, e] then decodeBody (a :: b :: c :: d :: e :: r) cap.toNat 5 d.toNat
      else .err .peLcsNormal := by
  have hlong : ¬(a :: b :: c :: d :: e :: r).length < 5 := by simp
  have height : (a :: b :: c :: d :: e :: r).length < 8 ↔ r.length < 3 := by
    simp only [List.length_cons]
    omega
  rw [decodeFrame, if_neg hlong]
  simp only [height]
  rfl

/-- The header of a frame: of form `f`, with the declared length `len` (R92, R93, R101). -/
inductive FrameHeader : Form → Nat → List Byte → Prop where
  | normal (n : Byte) : FrameHeader .normal n.toNat (normalHeader n)
  | extended (hi lo : Byte) : FrameHeader .extended (extendedLength hi lo) (extendedHeader hi lo)

theorem FrameHeader.length {f : Form} {len : Nat} {hdr : List Byte} (h : FrameHeader f len hdr) :
    hdr.length = 5 + extraHeader f := by
  cases h <;> rfl

/-- Behind a header the checks on the body decide (R146). -/
theorem FrameHeader.decodeFrame {f : Form} {len : Nat} {hdr : List Byte} (h : FrameHeader f len hdr) (r : List Byte)
    (cap : U16) : decodeFrame (hdr ++ r) cap = decodeBody (hdr ++ r) cap.toNat hdr.length len := by
  cases h with
  | normal n => exact decodeFrame_normalHeader (List.prefix_append _ r) cap
  | extended hi lo => exact decodeFrame_extendedHeader (List.prefix_append _ r) cap

/-- Five bytes that pass the preamble check and the length check are a normal header (R177, R179). -/
theorem frameHeader_of_normal {a b c d e : Byte} (hpre : [a, b, c] = preamble) (hsum : (d.toNat + e.toNat) % 256 = 0) :
    FrameHeader .normal d.toNat [a, b, c, d, e] := by
  obtain rfl : e = checksum [d] := (sumsToZero_append_iff [d] e).1 ((sumsToZero_two d e).2 hsum)
  obtain ⟨rfl, rfl, rfl⟩ : a = 0x00 ∧ b = 0x00 ∧ c = 0xFF := by simpa [preamble] using hpre
  exact .normal d

/-- Eight bytes that pass the form selection and the length check are an extended header (R178, R180). -/
theorem frameHeader_of_extended {h l c : Byte} (hsum : (h.toNat + l.toNat + c.toNat) % 256 = 0) :
    FrameHeader .extended (extendedLength h l) (preamble ++ [markerByte, markerByte] ++ [h, l, c]) := by
  obtain rfl : c = checksum [h, l] := (sumsToZero_append_iff [h, l] c).1 ((sumsToZero_three h l c).2 hsum)
  exact .extended h l

/-- The marker with fewer than three bytes behind it is a truncated frame; with three that do not sum to zero, a bad one. -/
theorem decodeFrame_marker_of_short {r : List Byte} (h : r.length < 3) (cap : U16) :
    decodeFrame (preamble ++ [markerByte, markerByte] ++ r) cap = .err .truncated :=
  (decodeFrame_five ..).trans ((if_neg (not_not.2 rfl)).trans ((if_pos ⟨rfl, rfl⟩).trans (if_pos h)))

theorem decodeFrame_marker_of_bad {h l c : Byte} (hsum : ¬(h.toNat + l.toNat + c.toNat) % 256 = 0) (cap : U16) :
    decodeFrame (preamble ++ [markerByte, markerByte] ++ [h, l, c]) cap = .err .peLcsExtended :=
  (decodeFrame_five ..).trans ((if_neg (not_not.2 rfl)).trans ((if_pos ⟨rfl, rfl⟩).trans
    ((if_neg (Nat.lt_irrefl 3)).trans (if_neg (mt (sumsToZero_three h l c).1 hsum)))))

/-! ## The body -/

/-- A declared length over the capacity is refused whatever follows (R147). -/
theorem decodeBody_of_over {s : List Byte} {cap hl len : Nat} (h : cap < len) :
    decodeBody s cap hl len = .err .peLengthOverCapacity := if_pos h

/-- A body that is not whole is truncated. -/
theorem decodeBody_of_short {s : List Byte} {cap hl len : Nat} (hcap : len ≤ cap) (h : s.length < hl + len + 2) :
    decodeBody s cap hl len = .err .truncated := (if_neg (Nat.not_lt.2 hcap)).trans (if_pos h)

/-- The checks on the trailer `d q` behind a payload of the declared length. -/
theorem decodeBody_of_whole (hdr : List Byte) {p : List Byte} {cap : Nat} (hcap : p.length ≤ cap) (d q : Byte) :
    decodeBody (hdr ++ (p ++ [d, q])) cap hdr.length p.length =
      if d ≠ checksum p then .err .peDcs
      else if q ≠ postamble then .err .pePostamble
      else .ok p (hdr ++ (p ++ [d, q])).length := by
  have hwhole : ¬(hdr ++ (p ++ [d, q])).length < hdr.length + p.length + 2 := by simp [Nat.add_assoc]
  have hp : ((hdr ++ (p ++ [d, q])).drop hdr.length).take p.length = p := by simp
  have hd : byteAt (hdr ++ (p ++ [d, q])) (hdr.length + p.length) = d := by
    rw [byteAt_append_right]
    exact byteAt_append_right p [d, q] 0
  have hq : byteAt (hdr ++ (p ++ [d, q])) (hdr.length + p.length + 1) = q := by
    rw [Nat.add_assoc, byteAt_append_right, byteAt_append_right]
    rfl
  have hlen : hdr.length + p.length + 2 = (hdr ++ (p ++ [d, q])).length := by simp [Nat.add_assoc]
  rw [decodeBody, if_neg (Nat.not_lt.2 hcap), if_neg hwhole]
  simp only [hp, hd, hq, hlen]

end Sys2Proof.Machine
end

section
/-! An exchange past its ACK (spec/42_link_engine.md R193, R195, R198): what the engine's registers and `RESP` hold, as a function of the
bytes it has taken, all through the reading of a frame and at each of its ends. -/

namespace Sys2Proof.Machine

/-! ## What an exchange leaves of the response -/

/-- Since `m` the capacity and `RESP_LEN` are as they were, and `RESP` has the bytes `p` from index 0 on and is else as it was. -/
structure ResponseSince (m t : State) (p : List Byte) : Prop where
  maxLen : t.maxLen = m.maxLen
  respLen : t.respLen = m.respLen
  resp : ∀ i, Memory.read? t.resp i = overlay (some 0) p i (Memory.read? m.resp i)

theorem ResponseSince.refl (m : State) : ResponseSince m m [] where
  maxLen := rfl
  respLen := rfl
  resp := fun i => by simp [overlay]

/-- The bytes written since `m` are what reads as `RESP[0..|p|)`. -/
theorem ResponseSince.respBytes {m t : State} {p : List Byte} (h : ResponseSince m t p) :
    respBytes t p.length = p := by
  refine List.ext_getElem (by simp) fun i h1 h2 => ?_
  rw [respBytes_getElem]
  refine respByte_of_read? ?_
  rw [h.resp i]
  simp [overlay, h2]

/-- A poll outside the payload read leaves the response as it is. -/
theorem ResponseSince.afterBytes {m t : State} {p : List Byte} (h : ResponseSince m t p) (hr : ReadAgrees t)
    (hf : t.fsm.timeoutReason?.isSome) (hs : t.fsm ≠ .awaitingPayload) : ResponseSince m (afterBytes t) p where
  maxLen := (afterBytes_maxLen t).trans h.maxLen
  respLen := (afterBytes_respLen t).trans h.respLen
  resp := by rw [afterBytes_resp_of_ne hr hf hs]; exact h.resp

/-- A poll of the payload appends the bytes it takes to those received before (R182). -/
theorem ResponseSince.afterBytes_payload {m t : State} {p : List Byte} (h : ResponseSince m t p) (hr : ReadAgrees t)
    (hs : t.fsm = .awaitingPayload) (hlen : p.length = t.cnt.toNat) :
    ResponseSince m (Machine.afterBytes t) (p ++ t.rx.take (takeCount t)) where
  maxLen := (afterBytes_maxLen t).trans h.maxLen
  respLen := (afterBytes_respLen t).trans h.respLen
  resp := fun i => by
    rw [afterBytes_resp_of_payload hr hs, read?_writeBytes, h.resp i, ← hlen]
    simp only [overlay, Nat.zero_le, true_and, Nat.zero_add, Nat.sub_zero, List.length_append]
    by_cases hlow : i < p.length
    · rw [if_neg (by omega), if_pos hlow, if_pos (by omega), List.getElem?_append_left hlow]
    · rw [if_neg hlow, List.getElem?_append_right (Nat.not_lt.1 hlow)]
      exact if_congr (by omega) rfl rfl

/-- The payload bytes of a frame that failed with the reason `r`, of the bytes `b` taken of it: none unless the failure came after
the payload read began (R198). -/
def payloadLeft (r : Reason) (f : Form) (len : Nat) (b : List Byte) : List Byte :=
  if r = .toPayload ∨ r = .toTrailer ∨ r = .peDcs ∨ r = .pePostamble then (b.drop (5 + extraHeader f)).take len else []

/-- Behind its header a frame has its payload: all of it if anything follows. -/
theorem payloadLeft_of_frame {r : Reason} {f : Form} {len : Nat} {hdr p rest : List Byte}
    (hr : r = .toPayload ∨ r = .toTrailer ∨ r = .peDcs ∨ r = .pePostamble) (hh : FrameHeader f len hdr)
    (hp : p.length = len ∨ p.length ≤ len ∧ rest = []) : payloadLeft r f len (hdr ++ (p ++ rest)) = p := by
  rw [payloadLeft, if_pos hr, ← hh.length, List.drop_left]
  obtain rfl | ⟨hle, rfl⟩ := hp
  · exact List.take_left
  · rw [List.append_nil, List.take_of_length_le hle]

/-- What holds where an exchange ends in a failure with the reason `r`, or is about to: `b` are the bytes taken of the frame. -/
structure FailsWith (m : State) (b : List Byte) (t : State) (r : Reason) : Prop where
  taken : r = .peLengthOverCapacity → b.length = 5 + extraHeader t.form
  response : ResponseSince m t (payloadLeft r t.form t.declLen.toNat b)

/-! ## The progress of an exchange past its ACK -/

/-- Where an exchange that read a frame from `m` on has got to when the engine has taken the bytes `b` of it. -/
inductive FrameProgress (m : State) (b : List Byte) (t : State) : Prop where
  | header (hs : t.fsm = .awaitingResponseHeader) (hneed : t.need = 5) (hresp : ResponseSince m t [])
      (hb : b = received t)
  | extendedLength (hs : t.fsm = .awaitingResponseLength) (hneed : t.need = 3) (hform : t.form = .extended)
      (hresp : ResponseSince m t []) (hb : b = preamble ++ [markerByte, markerByte] ++ received t)
  | payload {hdr p : List Byte} (hs : t.fsm = .awaitingPayload) (hneed : t.need = t.declLen)
      (hhdr : FrameHeader t.form t.declLen.toNat hdr) (hfits : t.declLen ≤ m.maxLen) (hresp : ResponseSince m t p)
      (hp : p.length = t.cnt.toNat) (hb : b = hdr ++ p)
  | trailer {hdr p : List Byte} (hs : t.fsm = .awaitingTrailer) (hneed : t.need = 2)
      (hhdr : FrameHeader t.form t.declLen.toNat hdr) (hfits : t.declLen ≤ m.maxLen) (hresp : ResponseSince m t p)
      (hp : p.length = t.declLen.toNat) (hb : b = hdr ++ (p ++ received t))
  | success (hs : t.fsm = .done) (hdec : decodeFrame b m.maxLen = .ok (respBytes t t.respLen.toNat) b.length)
      (hlen : b.length = 5 + extraHeader t.form + t.respLen.toNat + 2)
  | protocolError (hs : t.fsm = .failed) (hk : t.kind = .protocolError) (hdec : decodeFrame b m.maxLen = .err t.reason)
      (hfail : FailsWith m b t t.reason)
  | cancel (hs : t.fsm = .cancelling) (hdec : decodeFrame b m.maxLen = .err .truncated)
      (hfail : FailsWith m b t t.pendReason)
  | timeout (hs : t.fsm = .failed) (hk : t.kind = .timeout) (hdec : decodeFrame b m.maxLen = .err .truncated)
      (hfail : FailsWith m b t t.reason)
  | reset (hs : t.fsm = .idle)

variable {m : State} {b : List Byte}

/-- `FrameProgress` does not speak of what lies outside the exchange. -/
theorem FrameProgress.outside {t : State} (h : FrameProgress m b t) (rx : List Byte) (clk : U32) (replies : List Reply)
    (held : List Packet) (agenda : List Turn) : FrameProgress m b (t.withOutside rx clk replies held agenda) := by
  cases h with
  | header hs hneed hresp hb => exact .header hs hneed ⟨hresp.maxLen, hresp.respLen, hresp.resp⟩ hb
  | extendedLength hs hneed hform hresp hb =>
    exact .extendedLength hs hneed hform ⟨hresp.maxLen, hresp.respLen, hresp.resp⟩ hb
  | payload hs hneed hhdr hfits hresp hp hb =>
    exact .payload hs hneed hhdr hfits ⟨hresp.maxLen, hresp.respLen, hresp.resp⟩ hp hb
  | trailer hs hneed hhdr hfits hresp hp hb =>
    exact .trailer hs hneed hhdr hfits ⟨hresp.maxLen, hresp.respLen, hresp.resp⟩ hp hb
  | success hs hdec hlen => exact .success hs hdec hlen
  | protocolError hs hk hdec hfail =>
    exact .protocolError hs hk hdec ⟨hfail.taken, hfail.response.maxLen, hfail.response.respLen, hfail.response.resp⟩
  | cancel hs hdec hfail =>
    exact .cancel hs hdec ⟨hfail.taken, hfail.response.maxLen, hfail.response.respLen, hfail.response.resp⟩
  | timeout hs hk hdec hfail =>
    exact .timeout hs hk hdec ⟨hfail.taken, hfail.response.maxLen, hfail.response.respLen, hfail.response.resp⟩
  | reset hs => exact .reset hs

/-! ### The poll -/

/-- The bytes a reading engine's step takes (R173). -/
theorem engineTakes_reading {t : State} (hf : t.fsm.timeoutReason?.isSome) : engineTakes t = t.rx.take (takeCount t) := by
  obtain ⟨r, hr⟩ := Option.isSome_iff_exists.1 hf
  simp only [engineTakes, hr]

/-- The bytes a poll takes go on where the bytes before them ended. -/
theorem FrameProgress.afterBytes {t : State} (h : FrameProgress m b t) (hi : Inv t) (hf : t.fsm.timeoutReason?.isSome) :
    FrameProgress m (b ++ t.rx.take (takeCount t)) (afterBytes t) := by
  have hrec := received_afterBytes hi.maxLen_fits hi.read hf
  cases h with
  | header hs hneed hresp hb =>
    refine .header (by simpa using hs) (by simpa using hneed) (hresp.afterBytes hi.read hf (by rw [hs]; nofun)) ?_
    rw [hb, hrec]
  | extendedLength hs hneed hform hresp hb =>
    refine .extendedLength (by simpa using hs) (by simpa using hneed) (by simpa using hform)
      (hresp.afterBytes hi.read hf (by rw [hs]; nofun)) ?_
    rw [hb, hrec, List.append_assoc]
  | payload hs hneed hhdr hfits hresp hp hb =>
    refine .payload (by simpa using hs) (by simpa using hneed) (by simpa using hhdr) (by simpa using hfits)
      (hresp.afterBytes_payload hi.read hs hp) ?_ ?_
    · rw [afterBytes_cnt_toNat (Nat.le_of_lt (cnt_lt_need hi.read hf)), List.length_append, hp]
      simp [takeCount]
    · rw [hb, List.append_assoc]
  | trailer hs hneed hhdr hfits hresp hp hb =>
    refine .trailer (by simpa using hs) (by simpa using hneed) (by simpa using hhdr) (by simpa using hfits)
      (hresp.afterBytes hi.read hf (by rw [hs]; nofun)) (by simpa using hp) ?_
    rw [hb, hrec, List.append_assoc, List.append_assoc]
  | success hs | protocolError hs | cancel hs | timeout hs | reset hs => rw [hs] at hf; cases hf

/-! ### The checks of a complete block -/

/-- The response is not touched by an update outside it. -/
theorem ResponseSince.of_eq {t u : State} {p : List Byte} (h : ResponseSince m t p) (hmax : u.maxLen = t.maxLen)
    (hlen : u.respLen = t.respLen) (hresp : u.resp = t.resp) : ResponseSince m u p :=
  ⟨hmax.trans h.maxLen, hlen.trans h.respLen, hresp ▸ h.resp⟩

/-- The checks of a header end the exchange with `DECODE_FRAME`'s verdict on it, before a payload read began. -/
theorem FrameProgress.of_headerError {u : State} {r : Reason} (hresp : ResponseSince m u [])
    (hr : ¬(r = .toPayload ∨ r = .toTrailer ∨ r = .peDcs ∨ r = .pePostamble))
    (htaken : r = .peLengthOverCapacity → b.length = 5 + extraHeader u.form)
    (hdec : decodeFrame b m.maxLen = .err r) : FrameProgress m b (fail u .protocolError r) := by
  refine .protocolError rfl rfl hdec ⟨htaken, ?_⟩
  rw [fail_reason, payloadLeft, if_neg hr]
  exact hresp.of_eq rfl rfl rfl

/-- The capacity check behind a header (R181). -/
theorem FrameProgress.capacityCheck {u : State} (hresp : ResponseSince m u [])
    (hhdr : FrameHeader u.form u.declLen.toNat b) : FrameProgress m b (capacityCheck u) := by
  by_cases hover : u.maxLen < u.declLen
  · rw [capacityCheck_of_over hover]
    refine .of_headerError hresp (by decide) (fun _ => hhdr.length) ?_
    have hdec := hhdr.decodeFrame [] m.maxLen
    rw [List.append_nil, ← hresp.maxLen] at hdec
    rw [← hresp.maxLen, hdec]
    exact decodeBody_of_over hover
  · have hfits : u.declLen ≤ u.maxLen := BitVec.not_lt.1 hover
    by_cases hzero : u.declLen = 0
    · rw [capacityCheck_of_empty hzero]
      exact .trailer (p := []) rfl rfl hhdr (hresp.maxLen ▸ hfits) (hresp.of_eq rfl rfl rfl) (by simp [hzero])
        (by simp [received_beginRead])
    · rw [capacityCheck_of_fits hfits ((BitVec.pos_iff_ne_zero _).2 hzero)]
      exact .payload (p := []) rfl rfl hhdr (hresp.maxLen ▸ hfits) (hresp.of_eq rfl rfl rfl) rfl (List.append_nil b).symm

theorem exists_of_length_five {b : List Byte} (h : b.length = 5) : ∃ x0 x1 x2 x3 x4, b = [x0, x1, x2, x3, x4] :=
  match b, h with
  | [x0, x1, x2, x3, x4], _ => ⟨x0, x1, x2, x3, x4, rfl⟩

/-- The checks on the complete header `b` (R177 to R181). -/
theorem FrameProgress.preambleCheck {u : State} (hresp : ResponseSince m u []) (hlen : b.length = 5)
    (hbytes : u.hb.toList.take 5 = b) : FrameProgress m b (preambleCheck u) := by
  obtain ⟨x0, x1, x2, d, e, rfl⟩ := exists_of_length_five hlen
  have hdec := decodeFrame_five x0 x1 x2 d e [] m.maxLen
  rw [preambleCheck_of_bytes hbytes]
  split
  next hpre =>
    rw [if_neg (not_not.2 hpre)] at hdec
    split
    next hmark =>
      obtain ⟨rfl, rfl⟩ := hmark
      refine .extendedLength rfl rfl rfl (hresp.of_eq rfl rfl rfl) ?_
      rw [received_beginRead, ← hpre]
      rfl
    next hmark =>
      split
      next hsum =>
        refine .capacityCheck (hresp.of_eq rfl rfl rfl) ?_
        rw [setWidth_declLen_toNat]
        exact frameHeader_of_normal hpre hsum
      next hsum =>
        rw [if_neg hmark, if_neg (mt (sumsToZero_two d e).1 hsum)] at hdec
        exact .of_headerError (hresp.of_eq rfl rfl rfl) (by decide) nofun hdec
  next hpre => exact .of_headerError hresp (by decide) nofun (hdec.trans (if_pos hpre))

/-- The checks on the complete extended length `r` behind the marker (R180, R181). -/
theorem FrameProgress.extendedLengthCheck {u : State} {r : List Byte} (hresp : ResponseSince m u [])
    (hform : u.form = .extended) (hlen : r.length = 3) (hbytes : u.hb.toList.drop 5 = r) :
    FrameProgress m (preamble ++ [markerByte, markerByte] ++ r) (extendedLengthCheck u) := by
  obtain ⟨h, l, c, rfl⟩ := List.length_eq_three.1 hlen
  rw [extendedLengthCheck_of_bytes hbytes]
  split
  next hsum =>
    refine .capacityCheck (hresp.of_eq rfl rfl rfl) ?_
    rw [ofNat_extendedLength_toNat, hform]
    exact frameHeader_of_extended hsum
  next hsum => exact .of_headerError hresp (by decide) nofun (decodeFrame_marker_of_bad hsum _)

/-- The checks of a trailer end the exchange with `DECODE_FRAME`'s verdict on the frame, its payload left in `RESP`. -/
theorem FrameProgress.of_trailerError {u : State} {hdr p rest : List Byte} {r : Reason}
    (hr : r = .peDcs ∨ r = .pePostamble) (hhdr : FrameHeader u.form u.declLen.toNat hdr) (hresp : ResponseSince m u p)
    (hp : p.length = u.declLen.toNat) (hdec : decodeFrame (hdr ++ (p ++ rest)) m.maxLen = .err r) :
    FrameProgress m (hdr ++ (p ++ rest)) (fail u .protocolError r) := by
  refine .protocolError rfl rfl hdec ⟨fun hover => ?_, ?_⟩
  · obtain rfl : r = .peLengthOverCapacity := hover
    simp at hr
  · have hleft := payloadLeft_of_frame (rest := rest) (.inr (.inr hr)) hhdr (.inl hp)
    exact (hleft.symm ▸ hresp).of_eq rfl rfl rfl

/-- The checks on the complete trailer `r` (R184, R190). -/
theorem FrameProgress.trailerCheck {u : State} {hdr p r : List Byte} (hhdr : FrameHeader u.form u.declLen.toNat hdr)
    (hfits : u.declLen ≤ m.maxLen) (hresp : ResponseSince m u p) (hp : p.length = u.declLen.toNat)
    (hlen : r.length = 2) (hbytes : u.tb.toList = r) : FrameProgress m (hdr ++ (p ++ r)) (trailerCheck u) := by
  obtain ⟨d, q, rfl⟩ := List.length_eq_two.1 hlen
  have hrespBytes : respBytes u u.declLen.toNat = p := hp ▸ hresp.respBytes
  have hdec := hhdr.decodeFrame (p ++ [d, q]) m.maxLen
  rw [← hp, decodeBody_of_whole hdr (hp ▸ hfits)] at hdec
  rw [trailerCheck_of_bytes hbytes, hrespBytes]
  split
  next hdcs => exact .of_trailerError (.inl rfl) hhdr hresp hp (hdec.trans (if_pos hdcs))
  next hdcs =>
    rw [if_neg hdcs] at hdec
    split
    next hpost => exact .of_trailerError (.inr rfl) hhdr hresp hp (hdec.trans (if_pos hpost))
    next hpost =>
      refine .success rfl (hdec.trans ((if_neg hpost).trans ?_)) ?_
      · rw [succeed_respLen, respBytes_congr (s := succeed u) (t := u) rfl rfl, hrespBytes]
      · simp [hhdr.length, hp]
        omega

/-- The check rule of a complete block (R175). -/
theorem FrameProgress.complete {u : State} (h : FrameProgress m b u) (hf : u.fsm.timeoutReason?.isSome)
    (hcnt : u.cnt = u.need) : FrameProgress m b (complete u) := by
  cases h with
  | header hs hneed hresp hb =>
    have hrec : received u = u.hb.toList.take 5 := by simp only [received, hs, hcnt, hneed]; rfl
    rw [hrec] at hb
    simp only [Machine.complete, hs]
    exact .preambleCheck hresp (by simp [hb]) hb.symm
  | extendedLength hs hneed hform hresp hb =>
    have hrec : received u = u.hb.toList.drop 5 := by
      simp only [received, hs, hcnt, hneed]
      exact List.take_of_length_le (by simp)
    rw [hb, hrec]
    simp only [Machine.complete, hs]
    exact .extendedLengthCheck hresp hform (by simp) rfl
  | payload hs hneed hhdr hfits hresp hp hb =>
    simp only [Machine.complete, hs, enterTrailer]
    refine .trailer rfl rfl hhdr hfits (hresp.of_eq rfl rfl rfl) (by rw [hp, hcnt, hneed]; rfl) ?_
    rw [hb, received_beginRead, List.append_nil]
  | trailer hs hneed hhdr hfits hresp hp hb =>
    have hrec : received u = u.tb.toList := by
      simp only [received, hs, hcnt, hneed]
      exact List.take_of_length_le (by simp)
    rw [hb, hrec]
    simp only [Machine.complete, hs]
    exact .trailerCheck hhdr hfits hresp hp (by simp) rfl
  | success hs | protocolError hs | cancel hs | timeout hs | reset hs => rw [hs] at hf; cases hf

/-! ### The cancel -/

/-- The block read of a timeout was short, so the frame it is part of is truncated (R188, R193). -/
theorem FrameProgress.cancelEntry {u : State} (h : FrameProgress m b u) {r : Reason}
    (hr : u.fsm.timeoutReason? = some r) (hshort : u.cnt.toNat < u.need.toNat)
    (hlen : (received u).length = u.cnt.toNat) : FrameProgress m b (cancelEntry u r) := by
  cases h with
  | header hs hneed hresp hb =>
    rw [hs] at hr; cases hr
    refine .cancel rfl (decodeFrame_of_short ?_ _) ⟨nofun, hresp.of_eq rfl rfl rfl⟩
    rw [hb, hlen]
    rwa [hneed] at hshort
  | extendedLength hs hneed hform hresp hb =>
    rw [hs] at hr; cases hr
    rw [hb]
    refine .cancel rfl (decodeFrame_marker_of_short ?_ _) ⟨nofun, hresp.of_eq rfl rfl rfl⟩
    rw [hlen]
    rwa [hneed] at hshort
  | payload hs hneed hhdr hfits hresp hp hb =>
    rw [hs] at hr; cases hr
    rw [hneed, ← hp] at hshort
    refine .cancel rfl ?_ ⟨nofun, ?_⟩
    · rw [hb, hhdr.decodeFrame]
      exact decodeBody_of_short hfits (by rw [List.length_append]; omega)
    · have hleft := payloadLeft_of_frame (r := .toPayload) (rest := []) (by decide) hhdr (.inr ⟨hshort.le, rfl⟩)
      rw [List.append_nil, ← hb] at hleft
      exact (hleft.symm ▸ hresp).of_eq rfl rfl rfl
  | trailer hs hneed hhdr hfits hresp hp hb =>
    rw [hs] at hr; cases hr
    refine .cancel rfl ?_ ⟨nofun, ?_⟩
    · rw [hb, hhdr.decodeFrame]
      refine decodeBody_of_short hfits ?_
      rw [hneed] at hshort
      simp only [List.length_append, hlen, hp]
      have : u.cnt.toNat < 2 := hshort
      omega
    · have hleft := payloadLeft_of_frame (r := .toTrailer) (rest := received u) (by decide) hhdr (.inl hp)
      rw [← hb] at hleft
      exact (hleft.symm ▸ hresp).of_eq rfl rfl rfl
  | success hs | protocolError hs | cancel hs | timeout hs | reset hs => rw [hs] at hr; cases hr

/-! ### The engine's step -/

/-- An exchange past its ACK does not send its command again. -/
theorem FrameProgress.fsm_ne_sending {t : State} (h : FrameProgress m b t) : t.fsm ≠ .sending := by
  intro hs
  cases h with
  | header hs' | extendedLength hs' | payload hs' | trailer hs' | success hs' | protocolError hs' | cancel hs'
    | timeout hs' | reset hs' => cases hs.symm.trans hs'

/-- Every engine step keeps the progress of an exchange past its ACK. -/
theorem FrameProgress.engineStep {t u : State} (h : FrameProgress m b t) (hi : Inv t) (hu : engineStep t = .next u) :
    FrameProgress m (b ++ engineTakes t) u := by
  obtain ⟨rfl, hnone, -⟩ | ⟨hs, -⟩ | ⟨hf, hb, rfl⟩ | ⟨hf, hb, rfl⟩ | ⟨hs, -, rfl⟩ :=
    engineStep_next hi.maxLen_fits hi.read hu
  · simpa [engineTakes, hnone] using h
  · exact absurd hs h.fsm_ne_sending
  · rw [engineTakes_reading hf]
    refine (h.afterBytes hi hf).complete (by simpa using hf) ?_
    rw [afterBytes_cnt_of_buffered hi.read hf hb, afterBytes_need]
  · rw [engineTakes_reading hf]
    have hmore := h.afterBytes hi hf
    obtain he | ⟨r, hr, -, he⟩ := clockCheck_eq (Machine.afterBytes t) <;> rw [he]
    · exact hmore
    · have hread := readAgrees_afterBytes hi.read hf hb
      have hf' : (Machine.afterBytes t).fsm.timeoutReason?.isSome := by simpa using hf
      exact hmore.cancelEntry hr (cnt_lt_need hread hf') (received_length hread hf')
  · have hnone : b ++ engineTakes t = b := by simp [engineTakes, hs, FsmState.timeoutReason?]
    rw [hnone]
    cases h with
    | cancel _ hdec hfail => exact .timeout rfl rfl hdec ⟨hfail.taken, hfail.response.of_eq rfl rfl rfl⟩
    | header hs' | extendedLength hs' | payload hs' | trailer hs' | success hs' | protocolError hs' | timeout hs'
      | reset hs' => cases hs.symm.trans hs'

theorem frameProgress_keptInFlight (m : State) : KeptInFlight (FrameProgress m) where
  outside := FrameProgress.outside
  engine := fun hi _ h hu => h.engineStep hi hu
  reset := .reset

/-- What a success says of the frame's bytes (R193, R195). -/
theorem FrameProgress.of_done {t : State} (h : FrameProgress m b t) (ht : t.fsm = .done) :
    decodeFrame b m.maxLen = .ok (respBytes t t.respLen.toNat) b.length ∧
      b.length = 5 + extraHeader t.form + t.respLen.toNat + 2 := by
  cases h with
  | success _ hdec hlen => exact ⟨hdec, hlen⟩
  | header hs | extendedLength hs | payload hs | trailer hs | cancel hs | reset hs => cases hs.symm.trans ht
  | protocolError hs | timeout hs => cases hs.symm.trans ht

/-- What a failure says of the frame's bytes (R193, R198). -/
theorem FrameProgress.of_failed {t : State} (h : FrameProgress m b t) (ht : t.fsm = .failed) :
    FailsWith m b t t.reason ∧
      (t.kind = .protocolError ∧ decodeFrame b m.maxLen = .err t.reason ∨
        t.kind = .timeout ∧ decodeFrame b m.maxLen = .err .truncated) := by
  cases h with
  | protocolError _ hk hdec hfail => exact ⟨hfail, .inl ⟨hk, hdec⟩⟩
  | timeout _ hk hdec hfail => exact ⟨hfail, .inr ⟨hk, hdec⟩⟩
  | header hs | extendedLength hs | payload hs | trailer hs | cancel hs | reset hs => cases hs.symm.trans ht
  | success hs => cases hs.symm.trans ht

/-- Settles O53: an exchange in flight from the begin of the header read is at some point of `FrameProgress`. -/
theorem engineVerdictIsDecodeFrame : Obligations.EngineVerdictIsDecodeFrame := by
  intro s t b hi hs hcnt hflight
  have hnone : (received s).length = 0 := by rw [received_length hi.read (by rw [hs]; rfl), hcnt]; rfl
  have h : FrameProgress s b t := hflight.keeps (frameProgress_keptInFlight s) hi
    (.header hs (read_of_awaitingResponseHeader hi.read hs).2 (.refl s) (List.eq_nil_of_length_eq_zero hnone).symm)
  refine ⟨fun ht => (h.of_done ht).1, fun ht hk => ?_, fun ht hk => ?_⟩ <;>
    obtain ⟨-, ⟨hk', hdec⟩ | ⟨hk', hdec⟩⟩ := h.of_failed ht
  · exact hdec
  · cases hk.symm.trans hk'
  · cases hk.symm.trans hk'
  · exact hdec

end Sys2Proof.Machine
end

section
/-! An exchange from its sending step on (spec/42_link_engine.md R195, R198): the ACK phase before the frame. -/

namespace Sys2Proof.Machine

/-- Where an exchange that began to send in `s` has got to when the engine has taken the bytes `b`: the ACK phase, an end in it, or
the frame behind the ACK. -/
inductive ExchangeProgress (s : State) (b : List Byte) (t : State) : Prop where
  | sending (hs : t.fsm = .sending) (hresp : ResponseSince s t []) (hb : b = [])
  | ack (hs : t.fsm = .awaitingAck) (hresp : ResponseSince s t []) (hb : b = received t)
  | mismatch (hs : t.fsm = .failed) (hr : t.reason = .peAckMismatch) (hresp : ResponseSince s t [])
  | cancel (hs : t.fsm = .cancelling) (hr : t.pendReason = .toAck) (hresp : ResponseSince s t [])
  | timeout (hs : t.fsm = .failed) (hr : t.reason = .toAck) (hresp : ResponseSince s t [])
  | frame {rest : List Byte} (hb : b = ackPattern ++ rest) (hframe : FrameProgress s rest t)
  | reset (hs : t.fsm = .idle)

variable {s : State} {b : List Byte}

theorem ExchangeProgress.outside {t : State} (h : ExchangeProgress s b t) (rx : List Byte) (clk : U32)
    (replies : List Reply) (held : List Packet) (agenda : List Turn) :
    ExchangeProgress s b (t.withOutside rx clk replies held agenda) := by
  cases h with
  | sending hs hresp hb => exact .sending hs (hresp.of_eq rfl rfl rfl) hb
  | ack hs hresp hb => exact .ack hs (hresp.of_eq rfl rfl rfl) hb
  | mismatch hs hr hresp => exact .mismatch hs hr (hresp.of_eq rfl rfl rfl)
  | cancel hs hr hresp => exact .cancel hs hr (hresp.of_eq rfl rfl rfl)
  | timeout hs hr hresp => exact .timeout hs hr (hresp.of_eq rfl rfl rfl)
  | frame hb hframe => exact .frame hb (hframe.outside ..)
  | reset hs => exact .reset hs

/-- The engine's step in the ACK phase: a short poll, a cancel, or the check of the complete ACK (R176). -/
theorem ExchangeProgress.ackStep {t u : State} (hi : Inv t) (hs : t.fsm = .awaitingAck) (hresp : ResponseSince s t [])
    (hu : engineStep t = .next u) : ExchangeProgress s (received t ++ engineTakes t) u := by
  have hf : t.fsm.timeoutReason?.isSome := by rw [hs]; rfl
  have hresp' := hresp.afterBytes hi.read hf (by rw [hs]; nofun)
  rw [engineTakes_reading hf, ← received_afterBytes hi.maxLen_fits hi.read hf]
  by_cases hb : blockBuffered t
  · rw [engineStep_ack hi hs hb] at hu
    cases hu
    obtain ⟨hdst, hneed⟩ := read_of_awaitingAck hi.read hs
    obtain ⟨hfront, -⟩ := afterBytes_hb_of_front hi (.inl hs) hdst hb
    rw [hneed] at hfront
    rw [ackCheck_of_bytes hfront, received_of_buffered hi.maxLen_fits hi.read hf hb]
    split
    next hack =>
      exact .frame (hack.trans (List.append_nil _).symm)
        (.header rfl rfl (hresp'.of_eq rfl rfl rfl) (received_beginRead ..).symm)
    next hbad => exact .mismatch rfl rfl (hresp'.of_eq rfl rfl rfl)
  · rw [engineStep_of_short hi.maxLen_fits hi.read hf hb] at hu
    cases hu
    obtain he | ⟨r, hr, -, he⟩ := clockCheck_eq (afterBytes t) <;> rw [he]
    · exact .ack (by simpa using hs) hresp' rfl
    · rw [afterBytes_fsm, hs] at hr
      cases hr
      exact .cancel rfl rfl (hresp'.of_eq rfl rfl rfl)

/-- Every engine step keeps the progress of an exchange. -/
theorem ExchangeProgress.engineStep {t u : State} (h : ExchangeProgress s b t) (hi : Inv t) (hbusy : t.fsm.busy = true)
    (hu : engineStep t = .next u) : ExchangeProgress s (b ++ engineTakes t) u := by
  cases h with
  | sending hs hresp hb =>
    rw [engineStep_sending hs] at hu
    cases hu
    refine .ack rfl (hresp.of_eq rfl rfl rfl) ?_
    simp [hb, engineTakes, hs, FsmState.timeoutReason?, sendCommand, received_beginRead]
  | ack hs hresp hb => exact hb ▸ .ackStep hi hs hresp hu
  | cancel hs hr hresp =>
    rw [engineStep_cancelling hs] at hu
    cases hu
    split
    · exact .timeout rfl hr (hresp.of_eq rfl rfl rfl)
    · exact .cancel hs hr hresp
  | frame hb hframe => exact .frame (by rw [hb, List.append_assoc]) (hframe.engineStep hi hu)
  | mismatch hs | timeout hs | reset hs => rw [hs] at hbusy; cases hbusy

theorem exchangeProgress_keptInFlight (s : State) : KeptInFlight (ExchangeProgress s) where
  outside := ExchangeProgress.outside
  engine := fun hi hbusy h hu => h.engineStep hi hbusy hu
  reset := .reset

/-- An exchange in flight from the sending step is at some point of `ExchangeProgress`. -/
theorem InFlight.progress {t : State} (h : InFlight s b t) (hi : Inv s) (hs : s.fsm = .sending) :
    ExchangeProgress s b t :=
  h.keeps (exchangeProgress_keptInFlight s) hi (.sending hs (.refl s) rfl)

/-- Settles O55: the 6 bytes of the ACK, and behind them what the frame's end says of its own. -/
theorem bytesTakenByOneExchange : Obligations.BytesTakenByOneExchange := by
  intro s t b hi hs hflight
  have h := hflight.progress hi hs
  refine ⟨fun ht => ?_, fun ht hover => ?_⟩
  · cases h with
    | frame hb hframe =>
      obtain ⟨-, hlen⟩ := hframe.of_done ht
      rw [hb, List.length_append, ackPattern_length, hlen]
      omega
    | sending hs' | ack hs' | mismatch hs' | cancel hs' | timeout hs' | reset hs' => cases hs'.symm.trans ht
  · cases h with
    | frame hb hframe =>
      obtain ⟨hfail, -⟩ := hframe.of_failed ht
      rw [hb, List.length_append, ackPattern_length, hfail.taken hover]
      omega
    | mismatch _ hr | timeout _ hr => cases hr.symm.trans hover
    | sending hs' | ack hs' | cancel hs' | reset hs' => cases hs'.symm.trans ht

/-- A failed exchange leaves in `RESP` the payload bytes of the frame behind its ACK. -/
theorem ExchangeProgress.response_of_failed {t : State} (h : ExchangeProgress s b t) (ht : t.fsm = .failed) :
    ResponseSince s t (payloadLeft t.reason t.form t.declLen.toNat (b.drop 6)) := by
  cases h with
  | frame hb hframe => rw [hb, ← ackPattern_length, List.drop_left]; exact (hframe.of_failed ht).1.response
  | mismatch _ hr hresp | timeout _ hr hresp => rw [hr]; exact hresp
  | sending hs | ack hs | cancel hs | reset hs => cases hs.symm.trans ht

theorem payloadLeft_length (r : Reason) (f : Form) (len : Nat) (b : List Byte) : (payloadLeft r f len b).length =
    if r = .toPayload ∨ r = .toTrailer ∨ r = .peDcs ∨ r = .pePostamble then min len (b.length - (5 + extraHeader f))
    else 0 := by
  unfold payloadLeft
  split
  · rw [List.length_take, List.length_drop]
  · rfl

theorem payloadLeft_getElem? {r : Reason} {f : Form} {len : Nat} {b : List Byte} {i : Nat}
    (hi : i < (payloadLeft r f len b).length) : (payloadLeft r f len b)[i]? = b[5 + extraHeader f + i]? := by
  unfold payloadLeft at hi ⊢
  split at hi
  · rw [List.length_take] at hi
    rw [if_pos ‹_›, List.getElem?_take_of_lt (Nat.lt_min.1 hi).1, List.getElem?_drop]
  · cases hi

/-- Settles O56: the bytes left are those behind the 6 bytes of the ACK and the frame's header. -/
theorem respAfterAFailedExchange : Obligations.RespAfterAFailedExchange := by
  intro s t b hi hs hflight ht
  have h := (hflight.progress hi hs).response_of_failed ht
  have hskip (n : Nat) : b.length - 6 - (5 + n) = b.length - (11 + n) := by omega
  refine ⟨h.respLen, (payloadLeft t.reason t.form t.declLen.toNat (b.drop 6)).length, fun i hlow => ?_,
    fun i hhigh => ?_, ?_⟩
  · rw [h.resp i, overlay, if_pos ⟨Nat.zero_le i, by omega⟩, Nat.sub_zero, payloadLeft_getElem? hlow, List.getElem?_drop]
    congr 1
    omega
  · rw [h.resp i, overlay, if_neg (by omega)]
  · rw [payloadLeft_length, List.length_drop, hskip]

end Sys2Proof.Machine
end

section
/-! Every exchange ends (spec/42_link_engine.md R196): a scheduled turn shortens the agenda, and behind it every step of the model's idle
rule (log entry 4) brings the exchange further along the table of R192, shortens `RX`, or shortens the wait for the clock. -/

namespace Sys2Proof.Machine

/-! ## Runs -/

/-- Some run from `s` gets to a state with the property `G`. -/
def Reaches (s : State) (G : State → Prop) : Prop :=
  ∃ (n : Nat) (t : State), core.run n s = .next t ∧ G t

theorem Reaches.here {s : State} {G : State → Prop} (h : G s) : Reaches s G := ⟨0, s, rfl, h⟩

theorem Reaches.step {s u : State} {G : State → Prop} (hu : step s = .next u) (h : Reaches u G) : Reaches s G := by
  obtain ⟨n, t, hrun, hG⟩ := h
  refine ⟨n + 1, t, ?_, hG⟩
  have hstep : core.step s = .next u := hu
  simp only [Host.Core.run, hstep]
  exact hrun

/-! ## The engine's turn -/

/-- In the invariant the engine always has a next state: a poll stores inside its buffer, and no other step can stop. -/
theorem exists_engineStep {s : State} (hi : Inv s) : ∃ u, engineStep s = .next u := by
  by_cases hf : s.fsm.timeoutReason?.isSome
  · exact ⟨_, engineStep_reading_eq hi.maxLen_fits hi.read hf⟩
  · unfold engineStep
    cases hs : s.fsm with
    | idle | sending | done | failed | cancelling => exact ⟨_, rfl⟩
    | awaitingAck | awaitingResponseHeader | awaitingResponseLength | awaitingPayload | awaitingTrailer =>
      exact absurd (by rw [hs]; rfl) hf

@[simp] theorem clockCheck_agenda (s : State) : (clockCheck s).agenda = s.agenda := by rw [clockCheck_frame]

@[simp] theorem clockCheck_params (s : State) : (clockCheck s).params = s.params := by rw [clockCheck_frame]

/-- An engine step touches neither the schedule nor the parameters. -/
theorem engineStep_agenda_params {s u : State} (hi : Inv s) (hu : engineStep s = .next u) :
    u.agenda = s.agenda ∧ u.params = s.params := by
  obtain ⟨rfl, -, -⟩ | ⟨-, rfl⟩ | ⟨-, -, rfl⟩ | ⟨-, -, rfl⟩ | ⟨-, -, rfl⟩ := engineStep_next hi.maxLen_fits hi.read hu
  · exact ⟨rfl, rfl⟩
  · exact ⟨rfl, rfl⟩
  · simp
  · simp
  · exact ⟨rfl, rfl⟩

/-! ## The idle rule comes nearer to the end -/

/-- How many transitions of the table of R192 are at most ahead of a state before the block is ready. -/
def FsmState.rank : FsmState → Nat
  | .idle => 0
  | .done => 0
  | .failed => 0
  | .cancelling => 1
  | .awaitingTrailer => 2
  | .awaitingPayload => 3
  | .awaitingResponseLength => 4
  | .awaitingResponseHeader => 5
  | .awaitingAck => 6
  | .sending => 7

/-- While the block is busy every transition of the table leads on. -/
theorem rank_lt_of_mayBecome {a b : FsmState} (hbusy : a.busy = true) (h : a.mayBecome b = true) : b.rank < a.rank := by
  cases a with
  | idle | done | failed => cases hbusy
  | sending | awaitingAck | awaitingResponseHeader | awaitingResponseLength | awaitingPayload | awaitingTrailer
    | cancelling => cases b <;> cases h <;> decide

/-- The milliseconds until the clock ends the wait of the state: the cancel's sleep (R186) or the window of the read (R174). -/
def timeLeft (s : State) : Nat :=
  if s.fsm = .cancelling then s.params.cancelSettleMs - (elapsed s s.ts).toNat
  else s.timeout.toNat - (elapsed s s.t0).toNat

/-- `t` is nearer to the end of the exchange than `s`: further along the table, or in the same state with fewer bytes waiting, or
with the same bytes and less time left. -/
inductive Nearer (t s : State) : Prop where
  | further (h : t.fsm.rank < s.fsm.rank)
  | fewer (hs : t.fsm = s.fsm) (h : t.rx.length < s.rx.length)
  | later (hs : t.fsm = s.fsm) (hrx : t.rx = s.rx) (h : timeLeft t < timeLeft s)

/-- One millisecond later one millisecond more has elapsed, if that does not wrap (R246, R247). -/
theorem elapsed_tick {s : State} {since : U32} (h : (elapsed s since).toNat + 1 < 2 ^ 32) :
    (elapsed (tick s) since).toNat = (elapsed s since).toNat + 1 := by
  have hmove : elapsed (tick s) since = elapsed s since + 1 := by
    simp only [elapsed, tick, sub_eq_add_neg, add_right_comm]
  rw [hmove, BitVec.toNat_add]
  exact Nat.mod_eq_of_lt h

/-- A busy block that neither sends nor cancels reads a block (R32, R173). -/
theorem reading_of_busy {f : FsmState} (hbusy : f.busy = true) (hsend : f ≠ .sending) (hcancel : f ≠ .cancelling) :
    f.timeoutReason?.isSome := by
  cases f with
  | idle | done | failed => cases hbusy
  | sending => exact absurd rfl hsend
  | cancelling => exact absurd rfl hcancel
  | awaitingAck | awaitingResponseHeader | awaitingResponseLength | awaitingPayload | awaitingTrailer => rfl

/-- While the engine waits the clock brings the end nearer: a window is at most `2^32 - 1` long, and so is the sleep by its premise. -/
theorem nearer_tick {s : State} (hsleep : s.params.cancelSettleMs < 2 ^ 32) (hbusy : s.fsm.busy = true)
    (hoff : engineEnabled s = false) : Nearer (tick s) s := by
  refine .later rfl rfl ?_
  by_cases hs : s.fsm = .cancelling
  · have hwait : (elapsed s s.ts).toNat < s.params.cancelSettleMs := by
      simp only [engineEnabled, hs] at hoff
      exact Nat.not_le.1 (of_decide_eq_false hoff)
    simp only [timeLeft, tick_fsm, hs, if_true, tick_params, tick_ts]
    rw [elapsed_tick (by omega)]
    omega
  · have hsend : s.fsm ≠ .sending := fun h => by simp only [engineEnabled, h] at hoff; cases hoff
    have hf := reading_of_busy hbusy hsend hs
    have hopen : (elapsed s s.t0).toNat < s.timeout.toNat := by
      rw [engineEnabled_reading hf, Bool.or_eq_false_iff] at hoff
      exact BitVec.not_le.1 (of_decide_eq_false hoff.2)
    have hmax := s.timeout.isLt
    simp only [timeLeft, tick_fsm, hs, if_false, tick_timeout, tick_t0]
    rw [elapsed_tick (by omega)]
    omega

/-- An enabled engine step that stays in its state is a poll that takes bytes: a short one, in an open window (R197). -/
theorem nearer_of_same_state {s u : State} (hi : Inv s) (hbusy : s.fsm.busy = true) (hon : engineEnabled s = true)
    (hu : engineStep s = .next u) (hsame : u.fsm = s.fsm) : Nearer u s := by
  by_cases hf : s.fsm.timeoutReason?.isSome
  · have hshort : ¬ blockBuffered s := fun hb => by
      rw [engineStep_of_buffered hi.maxLen_fits hi.read hf hb] at hu
      cases hu
      exact (complete_fsm (afterBytes s) (by simpa using hf)).2.2 (by simpa using hsame)
    rw [engineStep_of_short hi.maxLen_fits hi.read hf hshort] at hu
    cases hu
    obtain ⟨r, hr⟩ := Option.isSome_iff_exists.1 hf
    cases hw : windowExpired s with
    | true =>
      rw [clockCheck_of_expired ((afterBytes_fsm s).symm ▸ hr) ((afterBytes_windowExpired s).trans hw)] at hsame
      rw [← hsame] at hr
      cases hr
    | false =>
      rw [engineEnabled_reading hf, hw, Bool.or_false, Bool.not_eq_true', List.isEmpty_eq_false_iff] at hon
      rw [clockCheck_of_open ((afterBytes_windowExpired s).trans hw)] at hsame ⊢
      refine .fewer hsame ?_
      rw [afterBytes_rx, rx_drop_of_short hshort]
      exact List.length_pos_iff.2 hon
  · cases hs : s.fsm with
    | idle | done | failed => rw [hs] at hbusy; cases hbusy
    | sending =>
      rw [engineStep_sending hs] at hu
      cases hu
      cases hsame.trans hs
    | cancelling =>
      have hsettled : cancelSettled s = true := by simpa only [engineEnabled, hs] using hon
      rw [engineStep_cancelling hs, if_pos hsettled] at hu
      cases hu
      cases hsame.trans hs
    | awaitingAck | awaitingResponseHeader | awaitingResponseLength | awaitingPayload | awaitingTrailer =>
      exact absurd (by rw [hs]; rfl) hf

/-- An enabled engine step brings the end nearer. -/
theorem nearer_engineStep {s u : State} (hi : Inv s) (hbusy : s.fsm.busy = true) (hon : engineEnabled s = true)
    (hu : engineStep s = .next u) : Nearer u s := by
  obtain hsame | hbecomes := engineStep_fsm hi hu
  · exact nearer_of_same_state hi hbusy hon hu hsame
  · exact .further (rank_lt_of_mayBecome hbusy hbecomes)

/-- An idle step of a busy block leaves it ready, or keeps the agenda empty and brings the end nearer. -/
theorem idleStep_nearer {s : State} (hi : Inv s) (hsleep : s.params.cancelSettleMs < 2 ^ 32)
    (hbusy : s.fsm.busy = true) (ha : s.agenda = []) :
    ∃ u, step s = .next u ∧ (u.fsm.busy = false ∨ u.agenda = [] ∧ u.params = s.params ∧ Nearer u s) := by
  rw [step_idle s ha, idleTurn]
  cases hon : engineEnabled s with
  | true =>
    obtain ⟨u, hu⟩ := exists_engineStep hi
    refine ⟨liftHeld u, engineTurn_of_engineStep hu, ?_⟩
    cases hu' : u.fsm.busy with
    | false => exact .inl (by rw [liftHeld_fsm, hu'])
    | true =>
      obtain ⟨hagenda, hparams⟩ := engineStep_agenda_params hi hu
      rw [liftHeld_of_busy u hu']
      exact .inr ⟨hagenda.trans ha, hparams, nearer_engineStep hi hbusy hon hu⟩
  | false => exact ⟨tick s, rfl, .inr ⟨ha, rfl, nearer_tick hsleep hbusy hon⟩⟩

/-- The idle rule gets to a ready state. -/
theorem reaches_ready_of_idle (s : State) (hi : Inv s) (hsleep : s.params.cancelSettleMs < 2 ^ 32)
    (ha : s.agenda = []) : Reaches s fun t => t.fsm.busy = false := by
  cases hbusy : s.fsm.busy with
  | false => exact .here hbusy
  | true =>
    obtain ⟨u, hu, hready | ⟨ha', hparams, hnear⟩⟩ := idleStep_nearer hi hsleep hbusy ha
    · exact .step hu (.here hready)
    · exact .step hu
        (reaches_ready_of_idle u (everyStepKeepsTheInvariant s u hi hu) (hparams ▸ hsleep) ha')
termination_by (s.fsm.rank, s.rx.length, timeLeft s)
decreasing_by
  cases hnear with
  | further h => exact Prod.Lex.left _ _ h
  | fewer hs h => rw [hs]; exact Prod.Lex.right _ (Prod.Lex.left _ _ h)
  | later hs hrx h => rw [hs, hrx]; exact Prod.Lex.right _ (Prod.Lex.right _ h)

/-! ## The agenda before it -/

/-- A quiet turn has a next state; a block that is busy behind it has the rest of the agenda before it. -/
theorem exists_step_quiet {s : State} {x : Turn} {rest : List Turn} (hi : Inv s) (ha : s.agenda = x :: rest)
    (hx : x.isQuiet = true) :
    ∃ u, step s = .next u ∧ (u.fsm.busy = false ∨ u.agenda = rest ∧ u.params = s.params) := by
  rw [step_turn s ha]
  cases x with
  | reset | resetInWrite => cases hx
  | packet p =>
    cases p with
    | request | sent => cases hx
    | received b => exact ⟨_, runPacket_received b _, .inr ⟨rfl, rfl⟩⟩
  | tick => exact ⟨_, rfl, .inr ⟨rfl, rfl⟩⟩
  | engine =>
    obtain ⟨u, hu⟩ := exists_engineStep (hi.taken rest)
    refine ⟨liftHeld u, engineTurn_of_engineStep hu, ?_⟩
    cases hu' : u.fsm.busy with
    | false => exact .inl (by rw [liftHeld_fsm, hu'])
    | true =>
      rw [liftHeld_of_busy u hu']
      exact .inr (engineStep_agenda_params (hi.taken rest) hu)

/-- A quiet agenda gets to a ready state, or runs out and leaves the rest to the idle rule. -/
theorem reaches_ready_of_quiet {agenda : List Turn} (hquiet : ∀ x ∈ agenda, x.isQuiet = true) {s : State} (hi : Inv s)
    (hsleep : s.params.cancelSettleMs < 2 ^ 32) (ha : s.agenda = agenda) : Reaches s fun t => t.fsm.busy = false := by
  induction agenda generalizing s with
  | nil => exact reaches_ready_of_idle s hi hsleep ha
  | cons x rest ih =>
    obtain ⟨hx, hrest⟩ := List.forall_mem_cons.1 hquiet
    obtain ⟨u, hu, hready | ⟨ha', hparams⟩⟩ := exists_step_quiet hi ha hx
    · exact .step hu (.here hready)
    · exact .step hu (ih hrest (everyStepKeepsTheInvariant s u hi hu) (hparams ▸ hsleep) ha')

/-- Settles O58: the finite agenda runs out, and the idle rule ends what is still in flight. -/
theorem everyExchangeEnds : Obligations.EveryExchangeEnds := fun _ hi hsleep hquiet =>
  reaches_ready_of_quiet hquiet hi hsleep rfl

end Sys2Proof.Machine
end

section
/-! An exchange whose remote delivers the ACK and a good frame succeeds (spec/42_link_engine.md R191): each block read finds its block
buffered whole, and its check goes on to the next. -/

namespace Sys2Proof.Machine

/-! ## Reading a reply that is buffered whole -/

/-- `t` is at the begin of a block read of the exchange that `s` accepted with the command `cmd`: the frame of `cmd` is sent,
nothing is scheduled or answered, and the bytes `rx` wait in `RX`. -/
structure Hears (s : State) (cmd : List Byte) (maxLen : U16) (t : State) (rx : List Byte) : Prop where
  inv : Inv t
  agenda : t.agenda = []
  cnt : t.cnt = 0
  rx : t.rx = rx
  maxLen : t.maxLen = maxLen
  tx : t.tx = s.tx ++ encodeFrame cmd
  replies : t.replies = s.replies

/-- `t` is the end of that exchange in a success with the payload `p`. -/
structure Answered (s : State) (cmd p : List Byte) (t : State) : Prop where
  fsm : t.fsm = .done
  kind : t.kind = .ok
  respLen : t.respLen.toNat = p.length
  resp : respBytes t p.length = p
  tx : t.tx = s.tx ++ encodeFrame cmd
  rx : t.rx = []
  replies : t.replies = s.replies ++ [⟨.exchange, .u32 0x00070001⟩]

variable {s t u : State} {cmd p x r : List Byte} {maxLen : U16}

/-- A block read that begins with its block at the front of `RX` completes with it. -/
theorem Hears.block (h : Hears s cmd maxLen t (x ++ r)) (hf : t.fsm.timeoutReason?.isSome)
    (hneed : t.need.toNat = x.length) : blockBuffered t ∧ block t = x ∧ rxAfterBlock t = r := by
  have hnone : received t = [] := List.eq_nil_of_length_eq_zero (by rw [received_length h.inv.read hf, h.cnt]; rfl)
  have hleft : t.need.toNat - t.cnt.toNat = x.length := by rw [h.cnt, hneed]; rfl
  refine ⟨?_, ?_, ?_⟩
  · rw [blockBuffered, hleft, h.rx, List.length_append]
    exact Nat.le_add_right ..
  · rw [Machine.block, hnone, h.rx, hneed]
    exact List.take_left
  · rw [rxAfterBlock, hleft, h.rx]
    exact List.drop_left

/-- With bytes in `RX` the idle rule is the engine's turn. -/
theorem Hears.step (h : Hears s cmd maxLen t (x ++ r)) (hf : t.fsm.timeoutReason?.isSome)
    (hneed : t.need.toNat = x.length) (hu : engineStep t = .next u) : step t = .next (liftHeld u) := by
  have hlt := cnt_lt_need h.inv.read hf
  have hrx : t.rx ≠ [] := fun e => by
    have hlen := congrArg List.length (h.rx.symm.trans e)
    rw [List.length_append, List.length_nil] at hlen
    omega
  have hon : engineEnabled t = true := by
    rw [engineEnabled_reading hf, Bool.or_eq_true, Bool.not_eq_true', List.isEmpty_eq_false_iff]
    exact .inl hrx
  rw [step_idle t h.agenda, idleTurn, if_pos hon]
  exact engineTurn_of_engineStep hu

/-- An engine step that begins the next block read hears the rest of the reply. -/
theorem Hears.next (h : Hears s cmd maxLen t (x ++ r)) (hf : t.fsm.timeoutReason?.isSome)
    (hneed : t.need.toNat = x.length) (hu : engineStep t = .next u) (hbusy : u.fsm.busy = true) (hcnt : u.cnt = 0)
    (hrx : u.rx = rxAfterBlock t) (hmax : u.maxLen = t.maxLen) (htx : u.tx = t.tx) (hrep : u.replies = t.replies) :
    Machine.step t = .next u ∧ Hears s cmd maxLen u r := by
  have hstep := h.step hf hneed hu
  rw [liftHeld_of_busy u hbusy] at hstep
  obtain ⟨-, -, hrest⟩ := h.block hf hneed
  exact ⟨hstep,
    { inv := everyStepKeepsTheInvariant t u h.inv hstep
      agenda := (engineStep_agenda_params h.inv hu).1.trans h.agenda
      cnt := hcnt
      rx := hrx.trans hrest
      maxLen := hmax.trans h.maxLen
      tx := htx.trans h.tx
      replies := hrep.trans h.replies }⟩

/-- Lifting the hold takes nothing of that back. -/
theorem Answered.liftHeld (h : Answered s cmd p t) : Answered s cmd p (liftHeld t) := by
  rw [liftHeld_of_ready t (by rw [h.fsm]; rfl)]
  exact ⟨h.fsm, h.kind, h.respLen, h.resp, h.tx, h.rx, h.replies⟩

/-! ## The block reads, last one first -/

/-- The trailer of the payload in `RESP` ends the exchange in a success (R184, R190). -/
theorem Hears.trailer (h : Hears s cmd maxLen t [checksum p, postamble]) (hs : t.fsm = .awaitingTrailer)
    (hlen : t.declLen.toNat = p.length) (hp : respBytes t p.length = p) : Reaches t (Answered s cmd p) := by
  have h' : Hears s cmd maxLen t ([checksum p, postamble] ++ []) := h
  have hf : t.fsm.timeoutReason?.isSome := by rw [hs]; rfl
  have hneed : t.need.toNat = 2 := by rw [(read_of_awaitingTrailer h.inv.read hs).2]; rfl
  obtain ⟨hb, hblock, hrest⟩ := h'.block hf hneed
  obtain ⟨tb, -, -, -, hok⟩ := trailerVerdict t _ _ h.inv hs hb hblock
  have hu := hok (by rw [hlen, hp]) rfl
  exact .step (h'.step hf hneed hu)
    (.here (Answered.liftHeld ⟨rfl, rfl, hlen, hp, h.tx, hrest, congrArg (· ++ _) h.replies⟩))

/-- The payload, complete in `RESP`, leads to its trailer (R182, R183). -/
theorem Hears.payload (h : Hears s cmd maxLen t (p ++ [checksum p, postamble])) (hs : t.fsm = .awaitingPayload)
    (hlen : t.declLen.toNat = p.length) : Reaches t (Answered s cmd p) := by
  have hf : t.fsm.timeoutReason?.isSome := by rw [hs]; rfl
  have hneed : t.need.toNat = p.length := by rw [need_eq_declLen h.inv.read hs, hlen]
  obtain ⟨hb, hblock, -⟩ := h.block hf hneed
  obtain ⟨resp, hu, hresp⟩ := completePayloadIsInResp t h.inv hs hb
  obtain ⟨hstep, hnext⟩ := h.next hf hneed hu rfl rfl rfl rfl rfl rfl
  refine .step hstep (hnext.trailer rfl hlen ?_)
  refine List.ext_getElem (by simp) fun i h1 h2 => ?_
  rw [respBytes_getElem]
  refine respByte_of_read? ?_
  simp only [hresp i, hlen, if_pos h2, hblock]
  exact List.getElem?_eq_getElem h2

/-- The extended length of a payload that fits leads to it (R180, R181). -/
theorem Hears.extendedLength {hi lo : Byte}
    (h : Hears s cmd maxLen t ([hi, lo, checksum [hi, lo]] ++ (p ++ [checksum p, postamble])))
    (hs : t.fsm = .awaitingResponseLength) (hlen : hi.toNat * 256 + lo.toNat = p.length) (hpos : 0 < p.length)
    (hfits : p.length ≤ maxLen.toNat) : Reaches t (Answered s cmd p) := by
  have hf : t.fsm.timeoutReason?.isSome := by rw [hs]; rfl
  have hneed : t.need.toNat = 3 := by rw [(read_of_awaitingResponseLength h.inv.read hs).2]; rfl
  obtain ⟨hb, hblock, -⟩ := h.block hf hneed
  obtain ⟨hb', len, -, hlen', -, -, hok, -⟩ := extendedLengthVerdict t _ _ _ h.inv hs hb hblock
  have hsum := (sumsToZero_three hi lo _).1 ((sumsToZero_append_iff [hi, lo] _).2 rfl)
  have hu := hok hsum (BitVec.lt_def.2 (by rw [hlen', hlen]; exact hpos))
    (BitVec.le_def.2 (by rw [hlen', hlen, h.maxLen]; exact hfits))
  obtain ⟨hstep, hnext⟩ := h.next hf hneed hu rfl rfl rfl rfl rfl rfl
  exact .step hstep (hnext.payload rfl (hlen'.trans hlen))

/-- The header of a payload of at most 255 bytes that fits leads to it, or to the trailer when it is empty (R179, R181). -/
theorem Hears.normalHeader {n : Byte} (h : Hears s cmd maxLen t (normalHeader n ++ (p ++ [checksum p, postamble])))
    (hs : t.fsm = .awaitingResponseHeader) (hlen : n.toNat = p.length) (hfits : p.length ≤ maxLen.toNat) :
    Reaches t (Answered s cmd p) := by
  have hf : t.fsm.timeoutReason?.isSome := by rw [hs]; rfl
  have hneed : t.need.toNat = 5 := by rw [(read_of_awaitingResponseHeader h.inv.read hs).2]; rfl
  obtain ⟨hb, hblock, -⟩ := h.block hf hneed
  obtain ⟨hb', -, -, -, -, -, hsome, hempty⟩ := headerVerdict t _ _ _ _ _ h.inv hs hb hblock
  have hsum := (sumsToZero_two n _).1 ((sumsToZero_append_iff [n] _).2 rfl)
  obtain hzero | hpos := Nat.eq_zero_or_pos n.toNat
  · have hu := hempty rfl hsum hzero
    obtain ⟨hstep, hnext⟩ := h.next hf hneed hu rfl rfl rfl rfl rfl rfl
    obtain rfl : p = [] := List.eq_nil_of_length_eq_zero (hlen.symm.trans hzero)
    exact .step hstep (hnext.trailer rfl rfl rfl)
  · have hu := hsome rfl hsum hpos (by rw [h.maxLen, hlen]; exact hfits)
    obtain ⟨hstep, hnext⟩ := h.next hf hneed hu rfl rfl rfl rfl rfl rfl
    exact .step hstep (hnext.payload rfl ((setWidth_declLen_toNat n).trans hlen))

/-- The header of a longer payload leads to its extended length (R178). -/
theorem Hears.extendedHeader {hi lo : Byte}
    (h : Hears s cmd maxLen t (extendedHeader hi lo ++ (p ++ [checksum p, postamble])))
    (hs : t.fsm = .awaitingResponseHeader) (hlen : hi.toNat * 256 + lo.toNat = p.length) (hpos : 0 < p.length)
    (hfits : p.length ≤ maxLen.toNat) : Reaches t (Answered s cmd p) := by
  have h' : Hears s cmd maxLen t (preamble ++ [markerByte, markerByte] ++
      ([hi, lo, checksum [hi, lo]] ++ (p ++ [checksum p, postamble]))) := h
  have hf : t.fsm.timeoutReason?.isSome := by rw [hs]; rfl
  have hneed : t.need.toNat = 5 := by rw [(read_of_awaitingResponseHeader h.inv.read hs).2]; rfl
  obtain ⟨hb, hblock, -⟩ := h'.block hf hneed
  obtain ⟨hb', -, -, hmark, -⟩ := headerVerdict t _ _ _ _ _ h.inv hs hb hblock
  have hu := hmark rfl rfl rfl
  obtain ⟨hstep, hnext⟩ := h'.next hf hneed hu rfl rfl rfl rfl rfl rfl
  exact .step hstep (hnext.extendedLength rfl hlen hpos hfits)

/-- The frame of a payload that fits ends the exchange in a success. -/
theorem Hears.frame (h : Hears s cmd maxLen t (encodeFrame p)) (hs : t.fsm = .awaitingResponseHeader)
    (hfits : p.length ≤ maxLen.toNat) : Reaches t (Answered s cmd p) := by
  have hmax : p.length ≤ 65535 := hfits.trans (Nat.le_of_lt_succ maxLen.isLt)
  obtain hshort | hlong := Nat.lt_or_ge p.length 256
  · rw [encodeFrame_normal (Nat.le_of_lt_succ hshort), List.append_assoc] at h
    exact h.normalHeader hs (by rw [BitVec.toNat_ofNat]; omega) hfits
  · rw [encodeFrame_extended hlong, List.append_assoc] at h
    exact h.extendedHeader hs (by simp only [BitVec.toNat_ofNat]; omega) (by omega) hfits

/-- And so do the ACK and the frame (R176). -/
theorem Hears.reply (h : Hears s cmd maxLen t (ackPattern ++ encodeFrame p)) (hs : t.fsm = .awaitingAck)
    (hfits : p.length ≤ maxLen.toNat) : Reaches t (Answered s cmd p) := by
  have hf : t.fsm.timeoutReason?.isSome := by rw [hs]; rfl
  have hneed : t.need.toNat = 6 := by rw [(read_of_awaitingAck h.inv.read hs).2]; rfl
  obtain ⟨hb, hblock, -⟩ := h.block hf hneed
  obtain ⟨hb', -, hack, -⟩ := ackCheckVerdict t h.inv hs hb
  have hu := hack hblock
  obtain ⟨hstep, hnext⟩ := h.next hf hneed hu rfl rfl rfl rfl rfl rfl
  exact .step hstep (hnext.frame rfl hfits)

/-! ## The scheduled turns before it -/

/-- `s` once it has accepted the exchange (R170), with the turns `agenda` to come. -/
def State.accepted (s : State) (cmd : List Byte) (maxLen : U16) (agenda : List Turn) : State :=
  { s with agenda := agenda, cmd := cmd, maxLen := maxLen, kind := .none, reason := .none, fsm := .sending }

theorem step_exchange {rest : List Turn} (hready : s.fsm.busy = false) (hcmd : cmd.length ≤ payloadMax)
    (hmax : maxLen.toNat ≤ 265) (ha : s.agenda = .packet (encode (.exchange cmd maxLen)) :: rest) :
    step s = .next (s.accepted cmd maxLen rest) := by
  have hwf : (Instr.exchange cmd maxLen).wellFormed = true := decide_eq_true hcmd
  rw [step_turn s ha, runTurn, runPacket_of_decode (decode_encode hwf)]
  exact exchangeIsAccepted _ cmd maxLen hready hmax

theorem step_accepted {rest : List Turn} : step (s.accepted cmd maxLen (.engine :: rest)) =
    .next (sendCommand (s.accepted cmd maxLen rest)) := by
  rw [step_turn _ rfl, runTurn, engineTurn_of_engineStep (engineStep_sending rfl), liftHeld_of_busy _ rfl]
  rfl

/-- After the acceptance, the sending step and the delivery the whole reply is there to hear (R170, R171, R67). -/
theorem reaches_of_hears {G : State → Prop} {b : List Byte} (hi : Inv s) (hready : s.fsm.busy = false)
    (hdepth : s.params.rxDepth = none) (hcmd : cmd.length ≤ payloadMax) (hmax : maxLen.toNat ≤ 265)
    (ha : s.agenda = [.packet (encode (.exchange cmd maxLen)), .engine, .packet (.received b)])
    (h : ∀ t, t.fsm = .awaitingAck → Hears s cmd maxLen t b → Reaches t G) : Reaches s G := by
  have haccept := step_exchange hready hcmd hmax ha
  have hsend : step (s.accepted cmd maxLen [.engine, .packet (.received b)]) = _ := step_accepted
  have hdeliver := step_received (sendCommand (s.accepted cmd maxLen [])) b []
  have hinv := everyStepKeepsTheInvariant _ _ (everyStepKeepsTheInvariant _ _
    (everyStepKeepsTheInvariant _ _ hi haccept) hsend) hdeliver
  have hrx := congrArg State.rx
    (deliver_of_unbounded (s := { sendCommand (s.accepted cmd maxLen []) with agenda := [] }) hdepth b)
  exact (((h _ rfl ⟨hinv, rfl, rfl, hrx, rfl, rfl, rfl⟩).step hdeliver).step hsend).step haccept

/-- Settles O57: the three scheduled turns leave the whole reply to hear, and the idle rule reads it. -/
theorem goodReplyMakesTheExchangeSucceed : Obligations.GoodReplyMakesTheExchangeSucceed := by
  intro s cmd p maxLen hi hready hdepth hcmd hfits hmax ha
  obtain ⟨n, t, hrun, hend⟩ := reaches_of_hears hi hready hdepth hcmd hmax ha fun t hs hears => hears.reply hs hfits
  exact ⟨n, t, hrun, hend.fsm, hend.kind, hend.respLen, hend.resp, hend.tx, hend.rx, hend.replies⟩

end Sys2Proof.Machine
end

section
/-! The clock port and the order of bytes and clock (spec/60_exceptions.md R246, R247, R226). The check of a complete block decides
nothing by `TIMEOUT` or the clock, so it goes on alike whatever they are (`complete_retimed`). -/

namespace Sys2Proof.Machine

/-! ## The clock's turn -/

theorem elapsed_toNat (s : State) (t : U32) : (elapsed s t).toNat = (s.clk.toNat + 2 ^ 32 - t.toNat) % 2 ^ 32 := by
  have ht := t.isLt
  rw [elapsed, BitVec.toNat_sub]
  congr 1
  omega

/-- Settles O43: the clock's turn is `tick`, and a word's sum and difference are those of the naturals, mod 2^32. -/
theorem clockCountsMillisecondsAndWraps : Obligations.ClockCountsMillisecondsAndWraps := by
  intro s rest
  exact ⟨s.clk + 1, BitVec.toNat_add .., step_turn { s with agenda := .tick :: rest } rfl, elapsed_toNat s⟩

/-! ## A state with another `TIMEOUT` and a shifted clock -/

/-- `s` with the timeout `v`, had the clock been `d` milliseconds further on all along. -/
def State.retimed (s : State) (v d : U32) : State :=
  { s.shiftClock d with timeout := v }

theorem retimed_zero (s : State) (v : U32) : s.retimed v 0 = { s with timeout := v } := by
  simp [State.retimed, State.shiftClock]

/-! ### The checks of a complete block (R175 to R190) -/

section
variable (s : State) (v d : U32)

theorem retimed_ite (c : Prop) [Decidable c] (t u : State) :
    (if c then t else u).retimed v d = if c then t.retimed v d else u.retimed v d :=
  apply_ite (State.retimed · v d) c t u

theorem ackCheck_retimed : ackCheck (s.retimed v d) = (ackCheck s).retimed v d := by
  rw [ackCheck, ackCheck, retimed_ite]; rfl

theorem capacityCheck_retimed : capacityCheck (s.retimed v d) = (capacityCheck s).retimed v d := by
  simp only [capacityCheck, retimed_ite]; rfl

theorem normalLengthCheck_retimed : normalLengthCheck (s.retimed v d) = (normalLengthCheck s).retimed v d := by
  rw [normalLengthCheck, normalLengthCheck, retimed_ite, ← capacityCheck_retimed]; rfl

theorem extendedLengthCheck_retimed : extendedLengthCheck (s.retimed v d) = (extendedLengthCheck s).retimed v d := by
  rw [extendedLengthCheck, extendedLengthCheck, retimed_ite, ← capacityCheck_retimed]; rfl

theorem preambleCheck_retimed : preambleCheck (s.retimed v d) = (preambleCheck s).retimed v d := by
  simp only [preambleCheck, formSelection, retimed_ite, ← normalLengthCheck_retimed]; rfl

theorem trailerCheck_retimed : trailerCheck (s.retimed v d) = (trailerCheck s).retimed v d := by
  simp only [trailerCheck, retimed_ite]; rfl

/-- A complete block is checked alike whatever `TIMEOUT` and the clock are. -/
theorem complete_retimed : complete (s.retimed v d) = (complete s).retimed v d := by
  have hfsm : (s.retimed v d).fsm = s.fsm := rfl
  unfold complete
  rw [hfsm]
  cases s.fsm with
  | idle | sending | done | failed | cancelling | awaitingPayload => rfl
  | awaitingAck => exact ackCheck_retimed ..
  | awaitingResponseHeader => exact preambleCheck_retimed ..
  | awaitingResponseLength => exact extendedLengthCheck_retimed ..
  | awaitingTrailer => exact trailerCheck_retimed ..

end

/-! ## Bytes come before the clock (R226) -/

theorem stored_withTimeout (s : State) (v : U32) (dst : Dst) (j : Nat) (b : List Byte) :
    stored { s with timeout := v } dst j b = { stored s dst j b with timeout := v } := by
  cases dst <;> rfl

/-- Taking bytes does not read `TIMEOUT`. -/
theorem afterBytes_withTimeout (s : State) (v : U32) :
    afterBytes { s with timeout := v } = { afterBytes s with timeout := v } :=
  congrArg (fun u : State => { u with cnt := s.cnt + BitVec.ofNat 16 (takeCount s) })
    (stored_withTimeout (rxTake s (takeCount s)) v s.dst s.cnt.toNat (s.rx.take (takeCount s)))

/-- Nor does the check of a complete block. -/
theorem complete_withTimeout (s : State) (v : U32) : complete { s with timeout := v } = { complete s with timeout := v } := by
  rw [← retimed_zero, ← retimed_zero, complete_retimed]

/-- Settles O29: a poll that finds its block buffered whole goes on to the check rule, and never looks at the window. -/
theorem bytesComeBeforeTheClock : Obligations.BytesComeBeforeTheClock := by
  intro s hi hf hb
  obtain ⟨-, hcancel, hleft⟩ := complete_fsm (afterBytes s) (by rwa [afterBytes_fsm])
  refine ⟨complete (afterBytes s), engineStep_of_buffered hi.maxLen_fits hi.read hf hb, ?_, hcancel, ?_, fun v => ?_⟩
  · rwa [afterBytes_fsm] at hleft
  · rw [complete_rx, afterBytes_rx, takeCount_of_buffered hb, rxAfterBlock]
  · have hstep := engineStep_of_buffered (s := { s with timeout := v }) hi.maxLen_fits hi.read hf hb
    rw [hstep, afterBytes_withTimeout, complete_withTimeout]

end Sys2Proof.Machine
end

section
/-! Only differences of clock values matter (spec/60_exceptions.md R246, R247): every turn but the reset input's commutes with a
shift of the clock and of both samples. A step that samples the clock samples the shifted clock, and a window is a difference. -/

namespace Sys2Proof.Machine

variable {d : U32}

/-! ## Branches and sequences -/

theorem shiftClock_ite (c : Prop) [Decidable c] (t u : State) :
    (if c then t else u).shiftClock d = if c then t.shiftClock d else u.shiftClock d :=
  apply_ite (State.shiftClock · d) c t u

theorem outcomeShiftClock_ite (c : Prop) [Decidable c] (o o' : Host.Outcome State Fault Refusal) :
    outcomeShiftClock d (if c then o else o') = if c then outcomeShiftClock d o else outcomeShiftClock d o' :=
  apply_ite (outcomeShiftClock d) c o o'

theorem andThen_shiftClock {k : State → Host.Outcome State Fault Refusal}
    (hk : ∀ s, k (s.shiftClock d) = outcomeShiftClock d (k s)) (o : Host.Outcome State Fault Refusal) :
    andThen (outcomeShiftClock d o) k = outcomeShiftClock d (andThen o k) := by
  cases o with
  | next s => exact hk s
  | fault | refused => rfl

/-! ## What reads the clock (R174, R186, R247) -/

@[simp] theorem elapsed_shiftClock (s : State) (t : U32) : elapsed (s.shiftClock d) (t + d) = elapsed s t :=
  add_sub_add_right_eq_sub s.clk t d

@[simp] theorem windowExpired_shiftClock (s : State) : windowExpired (s.shiftClock d) = windowExpired s :=
  congrArg (fun e => decide (s.timeout ≤ e)) (elapsed_shiftClock s s.t0)

@[simp] theorem cancelSettled_shiftClock (s : State) : cancelSettled (s.shiftClock d) = cancelSettled s :=
  congrArg (fun e : U32 => decide (s.params.cancelSettleMs ≤ e.toNat)) (elapsed_shiftClock s s.ts)

@[simp] theorem cancelDue_shiftClock (s : State) : cancelDue (s.shiftClock d) = cancelDue s := by
  rw [cancelDue, windowExpired_shiftClock]; rfl

theorem engineEnabled_shiftClock (s : State) : engineEnabled (s.shiftClock d) = engineEnabled s := by
  simp only [engineEnabled, windowExpired_shiftClock, cancelSettled_shiftClock]; rfl

/-! ## The engine's turn -/

theorem storeByte_shiftClock (s : State) (dst : Dst) (j : Nat) (b : Byte) :
    storeByte (s.shiftClock d) dst j b = (storeByte s dst j b).map (State.shiftClock · d) := by
  cases dst <;> rw [storeByte, storeByte, apply_ite (Option.map _)] <;> rfl

theorem storeBytes_shiftClock (b : List Byte) (s : State) (dst : Dst) (j : Nat) :
    storeBytes (s.shiftClock d) dst j b = outcomeShiftClock d (storeBytes s dst j b) := by
  induction b generalizing s j with
  | nil => rfl
  | cons x rest ih =>
    rw [storeBytes, storeBytes, storeByte_shiftClock]
    cases storeByte s dst j x with
    | some u => exact ih u (j + 1)
    | none => rfl

theorem complete_shiftClock (s : State) : complete (s.shiftClock d) = (complete s).shiftClock d :=
  calc complete (s.shiftClock d)
    _ = (complete s).retimed s.timeout d := complete_retimed s s.timeout d
    _ = (complete s).shiftClock d := by rw [← complete_timeout s]; rfl

theorem clockCheck_shiftClock (s : State) : clockCheck (s.shiftClock d) = (clockCheck s).shiftClock d := by
  have hfsm : (s.shiftClock d).fsm = s.fsm := rfl
  unfold clockCheck
  rw [hfsm, windowExpired_shiftClock]
  cases s.fsm.timeoutReason? with
  | none => rfl
  | some r => exact (shiftClock_ite (windowExpired s = true) (cancelEntry s r) s).symm

theorem afterTake_shiftClock (s : State) : afterTake (s.shiftClock d) = (afterTake s).shiftClock d := by
  rw [afterTake, afterTake, complete_shiftClock, clockCheck_shiftClock, shiftClock_ite]; rfl

theorem poll_shiftClock (s : State) : poll (s.shiftClock d) = outcomeShiftClock d (poll s) := by
  have hstore := storeBytes_shiftClock (d := d) (s.rx.take (takeCount s)) (rxTake s (takeCount s)) s.dst s.cnt.toNat
  rw [poll, poll, ← andThen_shiftClock, ← hstore]
  · rfl
  · exact fun t => congrArg Host.Outcome.next
      (afterTake_shiftClock { t with cnt := s.cnt + BitVec.ofNat 16 (takeCount s) })

theorem engineStep_shiftClock (s : State) : engineStep (s.shiftClock d) = outcomeShiftClock d (engineStep s) := by
  have hfsm : (s.shiftClock d).fsm = s.fsm := rfl
  unfold engineStep
  rw [hfsm, cancelSettled_shiftClock]
  cases s.fsm with
  | idle | sending | done | failed => rfl
  | awaitingAck | awaitingResponseHeader | awaitingResponseLength | awaitingPayload | awaitingTrailer =>
    exact poll_shiftClock s
  | cancelling => exact congrArg Host.Outcome.next (shiftClock_ite (cancelSettled s = true) (cancelEnd s) s).symm

theorem liftHeld_shiftClock (s : State) : liftHeld (s.shiftClock d) = (liftHeld s).shiftClock d := by
  rw [liftHeld, liftHeld, shiftClock_ite]; rfl

theorem engineTurn_shiftClock (s : State) : engineTurn (s.shiftClock d) = outcomeShiftClock d (engineTurn s) := by
  rw [engineTurn, engineTurn, engineStep_shiftClock, andThen_shiftClock]
  exact fun t => congrArg Host.Outcome.next (liftHeld_shiftClock t)

/-! ## The packets -/

/-- An operation that needs a ready block is held alike, and else goes on alike. -/
theorem whenReady_shiftClock {i : Instr} {s : State} {go go' : Host.Outcome State Fault Refusal}
    (h : go' = outcomeShiftClock d go) :
    whenReady i (s.shiftClock d) go' = outcomeShiftClock d (whenReady i s go) := by
  rw [h, whenReady, whenReady, outcomeShiftClock_ite]; rfl

theorem exec_shiftClock (i : Instr) (s : State) : exec i (s.shiftClock d) = outcomeShiftClock d (exec i s) := by
  cases i with
  | setTimeout | getTimeout | getStatus | getRespLen | timeoutX2 => exact whenReady_shiftClock rfl
  | exchange => exact whenReady_shiftClock (by rw [requireCapacity, requireCapacity, outcomeShiftClock_ite]; rfl)
  | readResp => exact whenReady_shiftClock (by rw [requireRespIndex, requireRespIndex, outcomeShiftClock_ite]; rfl)
  | checksum | encodeFrame | isAck | decodeFrame => rfl
  | frameAck | frameExtHeader | frameNormalHeader | frameTrailer => rfl
  | cancelSequence =>
    simp only [exec, execCancelSequence, cancelDue_shiftClock, clockCheck_shiftClock, outcomeShiftClock, shiftClock_ite]

theorem runPacket_shiftClock (p : Packet) (s : State) :
    runPacket p (s.shiftClock d) = outcomeShiftClock d (runPacket p s) := by
  unfold runPacket
  cases decode p with
  | ok i => exact exec_shiftClock i s
  | error r => cases r <;> rfl

/-! ## The step -/

theorem tick_shiftClock (s : State) : tick (s.shiftClock d) = (tick s).shiftClock d := by
  have hclk : s.clk + d + 1 = s.clk + 1 + d := add_right_comm ..
  simp only [tick, State.shiftClock, hclk]

theorem idleTurn_shiftClock (s : State) : idleTurn (s.shiftClock d) = outcomeShiftClock d (idleTurn s) := by
  rw [idleTurn, engineEnabled_shiftClock, engineTurn_shiftClock, tick_shiftClock, idleTurn, outcomeShiftClock_ite]
  rfl

theorem runTurn_shiftClock {x : Turn} (hx : x.isReset = false) (s : State) :
    runTurn x (s.shiftClock d) = outcomeShiftClock d (runTurn x s) := by
  cases x with
  | packet p => exact runPacket_shiftClock p s
  | engine => exact engineTurn_shiftClock s
  | tick => exact congrArg Host.Outcome.next (tick_shiftClock s)
  | reset | resetInWrite => cases hx

/-- Settles O60: the next turn is the idle turn, or a scheduled one that is not the reset input's. -/
theorem onlyClockDifferencesMatter : Obligations.OnlyClockDifferencesMatter := by
  intro s d hreset
  cases hs : s.agenda with
  | nil =>
    rw [step_idle s hs, step_idle (s.shiftClock d) hs]
    exact idleTurn_shiftClock s
  | cons x rest =>
    have hx : x.isReset = false := Bool.eq_false_iff.2 fun h => hreset ⟨x, rest, hs, h⟩
    rw [step_turn s hs, step_turn (s.shiftClock d) hs]
    exact runTurn_shiftClock hx { s with agenda := rest }

end Sys2Proof.Machine
end

section
/-! Reset (spec/70_reset_and_hazards.md R261 to R263) and the zero timeout (R276). -/

namespace Sys2Proof.Machine

/-! ## A zero timeout decides at the poll (R276) -/

/-- A window of no milliseconds has expired as soon as it opens. -/
theorem windowExpired_of_zero_timeout {s : State} (h : s.timeout = 0) : windowExpired s = true := by
  rw [windowExpired_iff, h]
  exact BitVec.le_def.2 (Nat.zero_le _)

/-- Settles O30: bytes come before the clock, so a buffered block completes (R226); a short one finds its window expired. -/
theorem zeroTimeoutDecidesAtThePoll : Obligations.ZeroTimeoutDecidesAtThePoll := by
  intro s hi hzero hf
  by_cases hb : blockBuffered s
  · obtain ⟨t, hstep, hleft, hcancel, -, -⟩ := bytesComeBeforeTheClock s hi hf hb
    exact ⟨t, hstep, iff_of_false hcancel (not_not_intro hb), hleft⟩
  · obtain ⟨r, hr⟩ := Option.isSome_iff_exists.1 hf
    obtain ⟨t, hstep, ht, -, -⟩ := expiredPollEntersTheCancel s r hi hr hb (windowExpired_of_zero_timeout hzero)
    have hcancel : t.fsm = .cancelling := by rw [ht]
    refine ⟨t, hstep, iff_of_true hcancel hb, fun hsame => ?_⟩
    rw [← hsame, hcancel] at hf
    cases hf

/-! ## The reset values (R261) -/

/-- The status word of an idle block without an outcome is 0 (R35). -/
theorem statusWord_of_idle {s : State} (hf : s.fsm = .idle) (hk : s.kind = .none) (hr : s.reason = .none) :
    statusWord s = 0 := by
  rw [statusWord, hf, hk, hr]
  rfl

/-- Settles O44: the fields of the power-on state, and an empty `RESP`. -/
theorem resetValues : Obligations.ResetValues :=
  ⟨rfl, rfl, rfl, statusWord_of_idle rfl rfl rfl, rfl, rfl, fun _ => rfl⟩

/-- The reset input gives the stated reset values, from any state `u` that has the parameters, the clock and the answers of `s`. -/
theorem registersReset_resetInput {s u : State} (hparams : u.params = s.params) (hclk : u.clk = s.clk)
    (hreplies : u.replies = s.replies) : RegistersReset s (resetInput u) where
  fsm := rfl
  kind := rfl
  reason := rfl
  status := statusWord_of_idle rfl rfl rfl
  timeout := by rw [resetInput_timeout, hparams]
  cmd := rfl
  resp _ := rfl
  clk := hclk
  params := hparams
  replies := hreplies

/-! ## The reset input and the link (R262, R263) -/

/-- A block read that times out is not the sending step. -/
theorem fsm_ne_sending_of_stepTimesOut {s : State} (h : stepTimesOut s = true) : s.fsm ≠ .sending := by
  intro hs
  have hf := reading_of_stepTimesOut h
  rw [hs] at hf
  cases hf

/-- Settles O45: the reset input leaves `TX` and `RX` alone, and a reset inside a write is the reset input after what the engine
has done by then: part of the sending step, part of a step that times out, or nothing. -/
theorem resetInputKeepsTheLink : Obligations.ResetInputKeepsTheLink := by
  intro s rest
  constructor
  · exact ⟨resetInput { s with agenda := rest }, step_turn { s with agenda := .reset :: rest } rfl,
      registersReset_resetInput rfl rfl rfl, rfl, rfl⟩
  · intro k
    refine ⟨resetInWrite k { s with agenda := rest }, step_turn { s with agenda := .resetInWrite k :: rest } rfl, ?_⟩
    obtain ⟨hs, he⟩ | ⟨hout, he⟩ | ⟨hs, hout, he⟩ := resetInWrite_cases k { s with agenda := rest } <;> rw [he] <;>
      refine ⟨registersReset_resetInput rfl rfl rfl, ?_⟩
    · exact ⟨fun _ => ⟨rfl, rfl⟩, fun h => absurd hs (fsm_ne_sending_of_stepTimesOut h), fun h _ => absurd hs h⟩
    · exact ⟨fun h => absurd h (fsm_ne_sending_of_stepTimesOut hout), fun _ => ⟨rfl, rfl⟩,
        fun _ h => absurd hout (Bool.eq_false_iff.1 h)⟩
    · exact ⟨fun h => absurd h hs, fun h => absurd h (Bool.eq_false_iff.1 hout), fun _ _ => ⟨rfl, rfl⟩⟩

end Sys2Proof.Machine
end
